-- ==== Sys2Proof/Word.lean ====
section
/-! DEFINITION. The machine's words: the widths the spec fixes (spec/00_scope.md R8, R10). -/

namespace Sys2Proof

/-- A 32-bit word: registers, addresses, instructions (R8). -/
abbrev Word := BitVec 32

/-- A byte, the smallest addressable unit (R8, R71). -/
abbrev Byte := BitVec 8

/-- A 64-bit pattern: a double-precision pair, KR, KI, T, MERGE, a pipeline slot (R24, R50, R52). -/
abbrev Dword := BitVec 64

/-- A 5-bit register number (R113). -/
abbrev Reg := BitVec 5

end Sys2Proof
end

