-- ==== Sys2Proof/Syntax.lean ====
section
/-! DEFINITION. The instructions: one constructor for each row of spec/opcode_table.json, its operands at exactly the
bits the encoding gives them (spec/30_encoding.md R112 to R126). -/

namespace Sys2Proof

/-- The precision of a floating-point operand, result or pipeline entry (R120, R52). -/
inductive Prec where
  | single
  | double
deriving DecidableEq, Repr

/-- Fields of an FP-escape word with two sources: fsrc1, fsrc2, fdest, S, R and D (R112, R120, R122). -/
structure Fp3 where
  src1 : Reg
  src2 : Reg
  dest : Reg
  s : Prec
  r : Prec
  d : Bool
deriving DecidableEq, Repr

/-- Fields of an FP-escape word with one source (fsrc1, or fsrc2 for frcp and frsqr); the other source field is not
an operand (R130). -/
structure Fp2 where
  src : Reg
  dest : Reg
  s : Prec
  r : Prec
  d : Bool
deriving DecidableEq, Repr

/-- Fields of pfgt and pfle: the R bit selects the instruction, S alone is the operand precision (R358). -/
structure FpCmp where
  src1 : Reg
  src2 : Reg
  dest : Reg
  s : Prec
  d : Bool
deriving DecidableEq, Repr

/-- Fields of fmlow.dd and pfmul3.dd, whose S and R are fixed (R346, R347). -/
structure FpDd where
  src1 : Reg
  src2 : Reg
  dest : Reg
  d : Bool
deriving DecidableEq, Repr

/-- Fields of fxfr: a floating-point source and a general destination; S and R are ignored (R356). -/
structure FpXfr where
  src : Reg
  dest : Reg
  d : Bool
deriving DecidableEq, Repr

/-- The instructions. A suffix `R` is the register form, `I` the immediate form. In the immediate forms of the loads
and stores the immediate holds the bits the size and auto-increment bits leave (R117 to R119): `imm` of a `.s` or `.l`
integer access is bits 15:1, of a `.d` or `.q` floating-point access bits 15:3, of a `.l` floating-point access
bits 15:2, of flush bits 15:1. `inc` is the auto-increment bit. -/
inductive Instr where
  | ldbR (src1 src2 dest : Reg)
  | ldbI (imm : BitVec 16) (src2 dest : Reg)
  | ixfr (src1 fdest : Reg)
  | stb (src1 : Reg) (imm : BitVec 16) (src2 : Reg)
  | ldsR (src1 src2 dest : Reg)
  | ldlR (src1 src2 dest : Reg)
  | ldsI (imm : BitVec 15) (src2 dest : Reg)
  | ldlI (imm : BitVec 15) (src2 dest : Reg)
  | sts (src1 : Reg) (imm : BitVec 15) (src2 : Reg)
  | stl (src1 : Reg) (imm : BitVec 15) (src2 : Reg)
  | flddR (src1 src2 fdest : Reg) (inc : Bool)
  | fldlR (src1 src2 fdest : Reg) (inc : Bool)
  | fldqR (src1 src2 fdest : Reg) (inc : Bool)
  | flddI (imm : BitVec 13) (src2 fdest : Reg) (inc : Bool)
  | fldlI (imm : BitVec 14) (src2 fdest : Reg) (inc : Bool)
  | fldqI (imm : BitVec 13) (src2 fdest : Reg) (inc : Bool)
  | fstdR (src1 src2 fdest : Reg) (inc : Bool)
  | fstlR (src1 src2 fdest : Reg) (inc : Bool)
  | fstqR (src1 src2 fdest : Reg) (inc : Bool)
  | fstdI (imm : BitVec 13) (src2 fdest : Reg) (inc : Bool)
  | fstlI (imm : BitVec 14) (src2 fdest : Reg) (inc : Bool)
  | fstqI (imm : BitVec 13) (src2 fdest : Reg) (inc : Bool)
  | ldc (csrc2 dest : Reg)
  | flush (imm : BitVec 15) (src2 dest : Reg) (inc : Bool)
  | stc (src1 csrc2 : Reg)
  | pstd (fdest : Reg) (imm : BitVec 13) (src2 : Reg) (inc : Bool)
  | bri (src1 : Reg)
  | trap (src1 src2 dest : Reg)
  | btneR (src1 src2 : Reg) (sbroff : BitVec 16)
  | btneI (const5 : BitVec 5) (src2 : Reg) (sbroff : BitVec 16)
  | bteR (src1 src2 : Reg) (sbroff : BitVec 16)
  | bteI (const5 : BitVec 5) (src2 : Reg) (sbroff : BitVec 16)
  | pflddR (src1 src2 fdest : Reg) (inc : Bool)
  | pfldlR (src1 src2 fdest : Reg) (inc : Bool)
  | pflddI (imm : BitVec 13) (src2 fdest : Reg) (inc : Bool)
  | pfldlI (imm : BitVec 14) (src2 fdest : Reg) (inc : Bool)
  | br (lbroff : BitVec 26)
  | call (lbroff : BitVec 26)
  | bc (lbroff : BitVec 26)
  | bct (lbroff : BitVec 26)
  | bnc (lbroff : BitVec 26)
  | bnct (lbroff : BitVec 26)
  | adduR (src1 src2 dest : Reg)
  | adduI (imm : BitVec 16) (src2 dest : Reg)
  | subuR (src1 src2 dest : Reg)
  | subuI (imm : BitVec 16) (src2 dest : Reg)
  | addsR (src1 src2 dest : Reg)
  | addsI (imm : BitVec 16) (src2 dest : Reg)
  | subsR (src1 src2 dest : Reg)
  | subsI (imm : BitVec 16) (src2 dest : Reg)
  | shlR (src1 src2 dest : Reg)
  | shlI (imm : BitVec 16) (src2 dest : Reg)
  | shrR (src1 src2 dest : Reg)
  | shrI (imm : BitVec 16) (src2 dest : Reg)
  | shraR (src1 src2 dest : Reg)
  | shraI (imm : BitVec 16) (src2 dest : Reg)
  | andR (src1 src2 dest : Reg)
  | andI (imm : BitVec 16) (src2 dest : Reg)
  | andnotR (src1 src2 dest : Reg)
  | andnotI (imm : BitVec 16) (src2 dest : Reg)
  | orR (src1 src2 dest : Reg)
  | orI (imm : BitVec 16) (src2 dest : Reg)
  | xorR (src1 src2 dest : Reg)
  | xorI (imm : BitVec 16) (src2 dest : Reg)
  | shrd (src1 src2 dest : Reg)
  | bla (src1 src2 : Reg) (sbroff : BitVec 16)
  | andh (imm : BitVec 16) (src2 dest : Reg)
  | andnoth (imm : BitVec 16) (src2 dest : Reg)
  | orh (imm : BitVec 16) (src2 dest : Reg)
  | xorh (imm : BitVec 16) (src2 dest : Reg)
  | lock
  | calli (src1 : Reg)
  | intovr
  | unlock
  | pfmam (dpc : BitVec 4) (o : Fp3)
  | pfmsm (dpc : BitVec 4) (o : Fp3)
  | pfam (dpc : BitVec 4) (o : Fp3)
  | pfsm (dpc : BitVec 4) (o : Fp3)
  | fmul (o : Fp3)
  | pfmul (o : Fp3)
  | fmlow (o : FpDd)
  | frcp (o : Fp2)
  | frsqr (o : Fp2)
  | pfmul3 (o : FpDd)
  | fadd (o : Fp3)
  | pfadd (o : Fp3)
  | fsub (o : Fp3)
  | pfsub (o : Fp3)
  | fix (o : Fp2)
  | pfix (o : Fp2)
  | famov (o : Fp2)
  | pfamov (o : Fp2)
  | ftrunc (o : Fp2)
  | pftrunc (o : Fp2)
  | pfgt (o : FpCmp)
  | pfle (o : FpCmp)
  | pfeq (o : Fp3)
  | fxfr (o : FpXfr)
  | fiadd (o : Fp3)
  | pfiadd (o : Fp3)
  | fisub (o : Fp3)
  | pfisub (o : Fp3)
  | faddp (o : Fp3)
  | pfaddp (o : Fp3)
  | faddz (o : Fp3)
  | pfaddz (o : Fp3)
  | fzchkl (o : Fp3)
  | pfzchkl (o : Fp3)
  | form (o : Fp2)
  | pform (o : Fp2)
  | fzchks (o : Fp3)
  | pfzchks (o : Fp3)
deriving DecidableEq, Repr

/-- Words that decode to a handler in a form the XR does not define and that no constructor of `Instr` holds (R129). -/
inductive ReservedForm where
  | pfldQuad           -- pfld with size .q
  | pstNotDouble       -- pst.d with a size other than .d
  | fmlowForm          -- fmlow with P = 1 or a pair other than .dd
  | frcpPipelined      -- frcp with P = 1
  | frsqrPipelined     -- frsqr with P = 1
  | pfmul3Form         -- pfmul3 with P = 0 or a pair other than .dd
  | compareScalar      -- pfgt, pfle or pfeq with P = 0
  | fxfrPipelined      -- fxfr with P = 1
deriving DecidableEq, Repr

/-- Whether a reserved form is an FP-escape word (R131's `fp` flag). -/
def ReservedForm.isFp : ReservedForm → Bool
  | .pfldQuad => false
  | .pstNotDouble => false
  | .fmlowForm => true
  | .frcpPipelined => true
  | .frsqrPipelined => true
  | .pfmul3Form => true
  | .compareScalar => true
  | .fxfrPipelined => true

/-- What the decoder reads in a word: an instruction, a form the spec refuses (R129), or an undefined opcode (R127). -/
inductive Decoded where
  | instr (i : Instr)
  | reserved (form : ReservedForm) (d : Bool)
  | undefined
deriving DecidableEq, Repr

end Sys2Proof
end

