-- ==== Sys2Proof/Config.lean ====
section
/-! DEFINITION. What an implementation fixes and plain data cannot hold: the parameters of spec/00_scope.md R9 that are functions, opaque,
so that nothing can be proved of their values; the free values; the interrupt sampling of a deterministic model; and the names of the
values of the two parameters that choose between readings. The other parameters are data, Machine/Params.lean. -/

namespace Sys2Proof.Config

/-- The values of DUAL_MODE_POLICY (R122). -/
inductive DualMode where
  | sequential
  | refuse
deriving DecidableEq, Repr

/-- The two senses of pfle's condition code, the values of PFLE_SENSE (R354). -/
inductive PfleSense where
  | negated
  | plain
deriving DecidableEq, Repr

/-- FRCP_FN (R348): the reciprocal approximation of a source pattern at precision S, as a pattern of precision R. OPEN. -/
opaque frcpFn : Dword → Prec → Prec → Dword

/-- FRSQR_FN (R349): the reciprocal square-root approximation. OPEN. -/
opaque frsqrFn : Dword → Prec → Prec → Dword

/-- INT_SAMPLE (R441): a deterministic model recognises an asserted, enabled interrupt at every step boundary. -/
def intSample : Bool := true

/-- The free values: the n-th value the spec leaves open in a run (an `undef`, an `any value`, NAN_RESULT). Nothing is
known of it. State's `freeCount` says how many have been used. -/
opaque freeValue : Nat → Dword

end Sys2Proof.Config
end

