-- ==== Sys2Proof/Machine/Params.lean ====
section
/-! DEFINITION. The named parameters that a model takes as arguments (spec/00_scope.md R9, spec/92_eei_decisions.md section 2), as
plain data: State holds them, no instruction changes them, and a statement about every state holds for every value of them. The
parameters that are functions, and the draws, are in Config. -/

namespace Sys2Proof.Machine

/-- The parameters of R9. -/
structure Params where
  /-- TRAP_VECTOR (R451): the address every trap redirects fetch to. -/
  trapVector : Word
  /-- RESET_VECTOR (R470): pc after reset. -/
  resetVector : Word
  /-- EPSR_PROC_TYPE (R34): epsr bits 7:0. -/
  epsrProcType : BitVec 8
  /-- EPSR_STEPPING (R34): epsr bits 12:8. -/
  epsrStepping : BitVec 5
  /-- EPSR_DCS (R34): epsr bits 21:18. -/
  epsrDcs : BitVec 4
  /-- FETCH_BIG_ENDIAN (R73): byte order of instruction fetch and page-table accesses. -/
  fetchBigEndian : Bool
  /-- DUAL_MODE_POLICY (R122): what the D bit does. -/
  dualModePolicy : Config.DualMode
  /-- DPC_T_LOAD (R380) as a 16-entry bit table indexed by DPC. -/
  dpcTLoad : BitVec 16
  /-- DPC_K_LOAD (R380) as a 16-entry bit table indexed by DPC. -/
  dpcKLoad : BitVec 16
  /-- K_LOAD_USES_NEW (R387): the multiply of the loading instruction uses the new K. -/
  kLoadUsesNew : Bool
  /-- PFLE_SENSE (R354). -/
  pfleSense : Config.PfleSense
  /-- MERGE_RESET (R408): MERGE after reset. -/
  mergeReset : Dword
deriving DecidableEq, Repr

/-- The parameters at the spec's defaults; EPSR_STEPPING, EPSR_DCS and MERGE_RESET have none and are zero (DESIGN CHOICE,
notes/assumptions/6.md). DPC_T_LOAD is DPC 2, 3, 6, 7, 8 and 11, as decision D48 and the list of parameters, which R9 names, have it; the
column of R380's table has 12 too (DEDUCED, notes/assumptions/23.md). DPC_K_LOAD is DPC 0 to 7. -/
def defaultParams : Params :=
  { trapVector := 0xFFFFFF00#32
    resetVector := 0xFFFFFF00#32
    epsrProcType := 1#8
    epsrStepping := 0#5
    epsrDcs := 0#4
    fetchBigEndian := false
    dualModePolicy := .sequential
    dpcTLoad := 0b0000100111001100#16
    dpcKLoad := 0b0000000011111111#16
    kLoadUsesNew := true
    pfleSense := .negated
    mergeReset := 0#64 }

end Sys2Proof.Machine
end

