-- ==== Sys2Proof/Decode.lean ====
section
/-! DEFINITION. Decoding and encoding instruction words (spec/30_encoding.md), the per-opcode flags (R131), and the
forms each instruction accepts (R27, R129, R358, R400). -/

namespace Sys2Proof

/-! ### Fields of a word (R112, R113) -/

/-- The primary opcode, bits 31:26 (R111). -/
def primaryOf (w : Word) : BitVec 6 := w.extractLsb' 26 6

/-- The src2 (fsrc2, csrc2) field, bits 25:21. -/
def src2Of (w : Word) : Reg := w.extractLsb' 21 5

/-- The dest (fdest) field, bits 20:16. -/
def destOf (w : Word) : Reg := w.extractLsb' 16 5

/-- The src1 (fsrc1) field, bits 15:11. -/
def src1Of (w : Word) : Reg := w.extractLsb' 11 5

/-- The 16-bit immediate, bits 15:0. -/
def imm16Of (w : Word) : BitVec 16 := w.extractLsb' 0 16

/-- The split immediate of the stores and short branches: bits 20:16 above bits 10:0 (R112). -/
def split16Of (w : Word) : BitVec 16 := destOf w ++ w.extractLsb' 0 11

/-- The split store offset without its size bit: bits 20:16 above bits 10:1 (R117). -/
def split15Of (w : Word) : BitVec 15 := destOf w ++ w.extractLsb' 1 10

/-- A precision bit: 0 single, 1 double (R120). -/
def precOf (b : Bool) : Prec := if b then .double else .single

/-- The bit of a precision (R120). -/
def Prec.bit : Prec → Bool
  | .single => false
  | .double => true

/-- The fields of an FP-escape word with two sources (R112). -/
def fp3Of (w : Word) : Fp3 :=
  { src1 := src1Of w, src2 := src2Of w, dest := destOf w,
    s := precOf (w.getLsbD 8), r := precOf (w.getLsbD 7), d := w.getLsbD 9 }

/-- The fields of an FP-escape word whose one source is fsrc1. -/
def fp2Of (w : Word) : Fp2 :=
  { src := src1Of w, dest := destOf w, s := precOf (w.getLsbD 8), r := precOf (w.getLsbD 7), d := w.getLsbD 9 }

/-- The fields of frcp and frsqr, whose one source is fsrc2 (R348, R349). -/
def fp2Src2Of (w : Word) : Fp2 :=
  { src := src2Of w, dest := destOf w, s := precOf (w.getLsbD 8), r := precOf (w.getLsbD 7), d := w.getLsbD 9 }

/-- The fields of pfgt and pfle (R353, R354). -/
def fpCmpOf (w : Word) : FpCmp :=
  { src1 := src1Of w, src2 := src2Of w, dest := destOf w, s := precOf (w.getLsbD 8), d := w.getLsbD 9 }

/-- The fields of fmlow.dd and pfmul3.dd. -/
def fpDdOf (w : Word) : FpDd :=
  { src1 := src1Of w, src2 := src2Of w, dest := destOf w, d := w.getLsbD 9 }

/-- The fields of fxfr (R356). -/
def fpXfrOf (w : Word) : FpXfr := { src := src1Of w, dest := destOf w, d := w.getLsbD 9 }

/-! ### The three tables -/

/-- A form chosen by the P bit (R121). -/
def byP (w : Word) (pipelined scalar : Decoded) : Decoded := if w.getLsbD 10 then pipelined else scalar

/-- A reserved FP-escape form, with its D bit. -/
def reservedFp (w : Word) (form : ReservedForm) : Decoded := .reserved form (w.getLsbD 9)

/-- FP opcodes 0x20 to 0x7F of the floating-point-escape table (R126). -/
def decodeFpUpper (w : Word) : Decoded :=
  match w.extractLsb' 0 7 with
  | 0x20#7 => byP w (.instr (.pfmul (fp3Of w))) (.instr (.fmul (fp3Of w)))
  | 0x21#7 => if !w.getLsbD 10 && w.getLsbD 8 && w.getLsbD 7 then .instr (.fmlow (fpDdOf w)) else reservedFp w .fmlowForm
  | 0x22#7 => byP w (reservedFp w .frcpPipelined) (.instr (.frcp (fp2Src2Of w)))
  | 0x23#7 => byP w (reservedFp w .frsqrPipelined) (.instr (.frsqr (fp2Src2Of w)))
  | 0x24#7 => if w.getLsbD 10 && w.getLsbD 8 && w.getLsbD 7 then .instr (.pfmul3 (fpDdOf w)) else reservedFp w .pfmul3Form
  | 0x30#7 => byP w (.instr (.pfadd (fp3Of w))) (.instr (.fadd (fp3Of w)))
  | 0x31#7 => byP w (.instr (.pfsub (fp3Of w))) (.instr (.fsub (fp3Of w)))
  | 0x32#7 => byP w (.instr (.pfix (fp2Of w))) (.instr (.fix (fp2Of w)))
  | 0x33#7 => byP w (.instr (.pfamov (fp2Of w))) (.instr (.famov (fp2Of w)))
  | 0x34#7 =>
    byP w (if w.getLsbD 7 then .instr (.pfle (fpCmpOf w)) else .instr (.pfgt (fpCmpOf w))) (reservedFp w .compareScalar)
  | 0x35#7 => byP w (.instr (.pfeq (fp3Of w))) (reservedFp w .compareScalar)
  | 0x3A#7 => byP w (.instr (.pftrunc (fp2Of w))) (.instr (.ftrunc (fp2Of w)))
  | 0x40#7 => byP w (reservedFp w .fxfrPipelined) (.instr (.fxfr (fpXfrOf w)))
  | 0x49#7 => byP w (.instr (.pfiadd (fp3Of w))) (.instr (.fiadd (fp3Of w)))
  | 0x4D#7 => byP w (.instr (.pfisub (fp3Of w))) (.instr (.fisub (fp3Of w)))
  | 0x50#7 => byP w (.instr (.pfaddp (fp3Of w))) (.instr (.faddp (fp3Of w)))
  | 0x51#7 => byP w (.instr (.pfaddz (fp3Of w))) (.instr (.faddz (fp3Of w)))
  | 0x57#7 => byP w (.instr (.pfzchkl (fp3Of w))) (.instr (.fzchkl (fp3Of w)))
  | 0x5A#7 => byP w (.instr (.pform (fp2Of w))) (.instr (.form (fp2Of w)))
  | 0x5F#7 => byP w (.instr (.pfzchks (fp3Of w))) (.instr (.fzchks (fp3Of w)))
  | _ => .undefined

/-- The floating-point-escape table (R124, R126): FP opcodes 0x00 to 0x1F are the dual operations, whose bits 3:0 are
DPC (R380). -/
def decodeFp (w : Word) : Decoded :=
  match w.extractLsb' 4 3 with
  | 0#3 => byP w (.instr (.pfam (w.extractLsb' 0 4) (fp3Of w))) (.instr (.pfmam (w.extractLsb' 0 4) (fp3Of w)))
  | 1#3 => byP w (.instr (.pfsm (w.extractLsb' 0 4) (fp3Of w))) (.instr (.pfmsm (w.extractLsb' 0 4) (fp3Of w)))
  | _ => decodeFpUpper w

/-- The core-escape table, indexed by bits 2:0 (R123). -/
def decodeCoreEscape (w : Word) : Decoded :=
  match w.extractLsb' 0 3 with
  | 1#3 => .instr .lock
  | 2#3 => .instr (.calli (src1Of w))
  | 4#3 => .instr .intovr
  | 7#3 => .instr .unlock
  | _ => .undefined

/-- A register-form instruction. -/
def regForm (w : Word) (f : Reg → Reg → Reg → Instr) : Decoded := .instr (f (src1Of w) (src2Of w) (destOf w))

/-- An immediate-form instruction. -/
def immForm (w : Word) (f : BitVec 16 → Reg → Reg → Instr) : Decoded := .instr (f (imm16Of w) (src2Of w) (destOf w))

/-- A register-form floating-point load or store: size from bits 2:1, auto-increment from bit 0 (R119). -/
def fmemReg (w : Word) (d l : Reg → Reg → Reg → Bool → Instr) (q : Decoded) : Decoded :=
  if w.getLsbD 1 then .instr (l (src1Of w) (src2Of w) (destOf w) (w.getLsbD 0))
  else if w.getLsbD 2 then q
  else .instr (d (src1Of w) (src2Of w) (destOf w) (w.getLsbD 0))

/-- An immediate-form floating-point load or store: the size and auto-increment bits are also bits 2:0 of imm16 (R119). -/
def fmemImm (w : Word) (d : BitVec 13 → Reg → Reg → Bool → Instr) (l : BitVec 14 → Reg → Reg → Bool → Instr)
    (q : Decoded) : Decoded :=
  if w.getLsbD 1 then .instr (l (w.extractLsb' 2 14) (src2Of w) (destOf w) (w.getLsbD 0))
  else if w.getLsbD 2 then q
  else .instr (d (w.extractLsb' 3 13) (src2Of w) (destOf w) (w.getLsbD 0))

/-- The long branch offset, bits 25:0 (R116). -/
def lbroffOf (w : Word) : BitVec 26 := w.extractLsb' 0 26

/-- Decode one instruction word through the primary table (R111, R125). -/
def decodeWord (w : Word) : Decoded :=
  match primaryOf w with
  | 0x00#6 => regForm w .ldbR
  | 0x01#6 => immForm w .ldbI
  | 0x02#6 => .instr (.ixfr (src1Of w) (destOf w))
  | 0x03#6 => .instr (.stb (src1Of w) (split16Of w) (src2Of w))
  | 0x04#6 => if w.getLsbD 0 then regForm w .ldlR else regForm w .ldsR
  | 0x05#6 =>
    if w.getLsbD 0 then .instr (.ldlI (w.extractLsb' 1 15) (src2Of w) (destOf w))
    else .instr (.ldsI (w.extractLsb' 1 15) (src2Of w) (destOf w))
  | 0x07#6 =>
    if w.getLsbD 0 then .instr (.stl (src1Of w) (split15Of w) (src2Of w))
    else .instr (.sts (src1Of w) (split15Of w) (src2Of w))
  | 0x08#6 => fmemReg w .flddR .fldlR (.instr (.fldqR (src1Of w) (src2Of w) (destOf w) (w.getLsbD 0)))
  | 0x09#6 => fmemImm w .flddI .fldlI (.instr (.fldqI (w.extractLsb' 3 13) (src2Of w) (destOf w) (w.getLsbD 0)))
  | 0x0A#6 => fmemReg w .fstdR .fstlR (.instr (.fstqR (src1Of w) (src2Of w) (destOf w) (w.getLsbD 0)))
  | 0x0B#6 => fmemImm w .fstdI .fstlI (.instr (.fstqI (w.extractLsb' 3 13) (src2Of w) (destOf w) (w.getLsbD 0)))
  | 0x0C#6 => .instr (.ldc (src2Of w) (destOf w))
  | 0x0D#6 => .instr (.flush (w.extractLsb' 1 15) (src2Of w) (destOf w) (w.getLsbD 0))
  | 0x0E#6 => .instr (.stc (src1Of w) (src2Of w))
  | 0x0F#6 =>
    if w.getLsbD 1 || w.getLsbD 2 then .reserved .pstNotDouble false
    else .instr (.pstd (destOf w) (w.extractLsb' 3 13) (src2Of w) (w.getLsbD 0))
  | 0x10#6 => .instr (.bri (src1Of w))
  | 0x11#6 => regForm w .trap
  | 0x12#6 => decodeFp w
  | 0x13#6 => decodeCoreEscape w
  | 0x14#6 => .instr (.btneR (src1Of w) (src2Of w) (split16Of w))
  | 0x15#6 => .instr (.btneI (src1Of w) (src2Of w) (split16Of w))
  | 0x16#6 => .instr (.bteR (src1Of w) (src2Of w) (split16Of w))
  | 0x17#6 => .instr (.bteI (src1Of w) (src2Of w) (split16Of w))
  | 0x18#6 => fmemReg w .pflddR .pfldlR (.reserved .pfldQuad false)
  | 0x19#6 => fmemImm w .pflddI .pfldlI (.reserved .pfldQuad false)
  | 0x1A#6 => .instr (.br (lbroffOf w))
  | 0x1B#6 => .instr (.call (lbroffOf w))
  | 0x1C#6 => .instr (.bc (lbroffOf w))
  | 0x1D#6 => .instr (.bct (lbroffOf w))
  | 0x1E#6 => .instr (.bnc (lbroffOf w))
  | 0x1F#6 => .instr (.bnct (lbroffOf w))
  | 0x20#6 => regForm w .adduR
  | 0x21#6 => immForm w .adduI
  | 0x22#6 => regForm w .subuR
  | 0x23#6 => immForm w .subuI
  | 0x24#6 => regForm w .addsR
  | 0x25#6 => immForm w .addsI
  | 0x26#6 => regForm w .subsR
  | 0x27#6 => immForm w .subsI
  | 0x28#6 => regForm w .shlR
  | 0x29#6 => immForm w .shlI
  | 0x2A#6 => regForm w .shrR
  | 0x2B#6 => immForm w .shrI
  | 0x2C#6 => regForm w .shrd
  | 0x2D#6 => .instr (.bla (src1Of w) (src2Of w) (split16Of w))
  | 0x2E#6 => regForm w .shraR
  | 0x2F#6 => immForm w .shraI
  | 0x30#6 => regForm w .andR
  | 0x31#6 => immForm w .andI
  | 0x33#6 => immForm w .andh
  | 0x34#6 => regForm w .andnotR
  | 0x35#6 => immForm w .andnotI
  | 0x37#6 => immForm w .andnoth
  | 0x38#6 => regForm w .orR
  | 0x39#6 => immForm w .orI
  | 0x3B#6 => immForm w .orh
  | 0x3C#6 => regForm w .xorR
  | 0x3D#6 => immForm w .xorI
  | 0x3F#6 => immForm w .xorh
  | _ => .undefined

/-- Four bytes in increasing address order as an instruction word (R71, R73). -/
def wordOfBytes (bigEndian : Bool) (b0 b1 b2 b3 : Byte) : Word :=
  if bigEndian then b0 ++ b1 ++ b2 ++ b3 else b3 ++ b2 ++ b1 ++ b0

/-- Byte `k` (0 to 3, in increasing address order) of a word laid out in memory (R71, R73). -/
def byteOfWord (bigEndian : Bool) (w : Word) (k : Nat) : Byte :=
  w.extractLsb' (8 * (if bigEndian then 3 - k else k)) 8

/-- Decode the first four bytes of a list of bytes, in the byte order of fetch (R73): total, answering `none` when there are fewer
than four (every instruction is one 32-bit word, R110). -/
def decodeBytes (bigEndian : Bool) : List Byte → Option (Decoded × List Byte)
  | b0 :: b1 :: b2 :: b3 :: rest => some (decodeWord (wordOfBytes bigEndian b0 b1 b2 b3), rest)
  | _ => none

/-- The instruction the decoder reads from an instruction whose bits are `w`: the word is laid out as the hardware
stores it, in the default byte order of fetch, and given to the decoder; bits above `nbits` are zero. -/
def decodeTableWord (nbits w : Nat) : Option Instr :=
  let word : Word := BitVec.ofNat 32 (w % 2 ^ nbits)
  let order := Machine.defaultParams.fetchBigEndian
  let byte := byteOfWord order word
  match decodeBytes order [byte 0, byte 1, byte 2, byte 3] with
  | some (.instr i, _) => some i
  | _ => none

/-! ### The encoder, from the same tables -/

/-- A word of the REG format (R112). -/
def regWord (op : BitVec 6) (src2 dest src1 : Reg) (low : BitVec 11) : Word := op ++ src2 ++ dest ++ src1 ++ low

/-- A word of the REG format with a 16-bit immediate (R112). -/
def immWord (op : BitVec 6) (src2 dest : Reg) (imm : BitVec 16) : Word := op ++ src2 ++ dest ++ imm

/-- A word of the SPLIT format (R112). -/
def splitWord (op : BitVec 6) (src2 src1 : Reg) (imm : BitVec 16) : Word :=
  op ++ src2 ++ imm.extractLsb' 11 5 ++ src1 ++ imm.extractLsb' 0 11

/-- A word of the LBR format (R112). -/
def lbrWord (op : BitVec 6) (off : BitVec 26) : Word := op ++ off

/-- A word of the core-escape format (R112, R123). -/
def coreEscapeWord (src1 : Reg) (code : BitVec 3) : Word := 0x13#6 ++ 0#5 ++ 0#5 ++ src1 ++ 0#8 ++ code

/-- A word of the FP-escape format (R112). -/
def fpWord (src2 dest src1 : Reg) (p d s r : Bool) (op : BitVec 7) : Word :=
  0x12#6 ++ src2 ++ dest ++ src1 ++ BitVec.ofBool p ++ BitVec.ofBool d ++ BitVec.ofBool s ++ BitVec.ofBool r ++ op

/-- The word of an `Fp3` instruction. -/
def fp3Word (p : Bool) (op : BitVec 7) (o : Fp3) : Word := fpWord o.src2 o.dest o.src1 p o.d o.s.bit o.r.bit op

/-- The word of an `Fp2` instruction whose source is fsrc1. -/
def fp2Word (p : Bool) (op : BitVec 7) (o : Fp2) : Word := fpWord 0#5 o.dest o.src p o.d o.s.bit o.r.bit op

/-- The word of frcp or frsqr. -/
def fp2Src2Word (op : BitVec 7) (o : Fp2) : Word := fpWord o.src o.dest 0#5 false o.d o.s.bit o.r.bit op

/-- The low 11 bits of a register-form floating-point load or store: size and auto-increment (R119). -/
def fmemLow (size : BitVec 2) (inc : Bool) : BitVec 11 := 0#8 ++ size ++ BitVec.ofBool inc

/-- The instruction word of an instruction; unused bits are zero (R112 to R126, R130). -/
def encode : Instr → Word
  | .ldbR src1 src2 dest => regWord 0x00#6 src2 dest src1 0#11
  | .ldbI imm src2 dest => immWord 0x01#6 src2 dest imm
  | .ixfr src1 fdest => regWord 0x02#6 0#5 fdest src1 0#11
  | .stb src1 imm src2 => splitWord 0x03#6 src2 src1 imm
  | .ldsR src1 src2 dest => regWord 0x04#6 src2 dest src1 0#11
  | .ldlR src1 src2 dest => regWord 0x04#6 src2 dest src1 1#11
  | .ldsI imm src2 dest => immWord 0x05#6 src2 dest (imm ++ 0#1)
  | .ldlI imm src2 dest => immWord 0x05#6 src2 dest (imm ++ 1#1)
  | .sts src1 imm src2 => splitWord 0x07#6 src2 src1 (imm ++ 0#1)
  | .stl src1 imm src2 => splitWord 0x07#6 src2 src1 (imm ++ 1#1)
  | .flddR src1 src2 fdest inc => regWord 0x08#6 src2 fdest src1 (fmemLow 0#2 inc)
  | .fldlR src1 src2 fdest inc => regWord 0x08#6 src2 fdest src1 (fmemLow 1#2 inc)
  | .fldqR src1 src2 fdest inc => regWord 0x08#6 src2 fdest src1 (fmemLow 2#2 inc)
  | .flddI imm src2 fdest inc => immWord 0x09#6 src2 fdest (imm ++ 0#2 ++ BitVec.ofBool inc)
  | .fldlI imm src2 fdest inc => immWord 0x09#6 src2 fdest (imm ++ 1#1 ++ BitVec.ofBool inc)
  | .fldqI imm src2 fdest inc => immWord 0x09#6 src2 fdest (imm ++ 2#2 ++ BitVec.ofBool inc)
  | .fstdR src1 src2 fdest inc => regWord 0x0A#6 src2 fdest src1 (fmemLow 0#2 inc)
  | .fstlR src1 src2 fdest inc => regWord 0x0A#6 src2 fdest src1 (fmemLow 1#2 inc)
  | .fstqR src1 src2 fdest inc => regWord 0x0A#6 src2 fdest src1 (fmemLow 2#2 inc)
  | .fstdI imm src2 fdest inc => immWord 0x0B#6 src2 fdest (imm ++ 0#2 ++ BitVec.ofBool inc)
  | .fstlI imm src2 fdest inc => immWord 0x0B#6 src2 fdest (imm ++ 1#1 ++ BitVec.ofBool inc)
  | .fstqI imm src2 fdest inc => immWord 0x0B#6 src2 fdest (imm ++ 2#2 ++ BitVec.ofBool inc)
  | .ldc csrc2 dest => regWord 0x0C#6 csrc2 dest 0#5 0#11
  | .flush imm src2 dest inc => immWord 0x0D#6 src2 dest (imm ++ BitVec.ofBool inc)
  | .stc src1 csrc2 => regWord 0x0E#6 csrc2 0#5 src1 0#11
  | .pstd fdest imm src2 inc => immWord 0x0F#6 src2 fdest (imm ++ 0#2 ++ BitVec.ofBool inc)
  | .bri src1 => regWord 0x10#6 0#5 0#5 src1 0#11
  | .trap src1 src2 dest => regWord 0x11#6 src2 dest src1 0#11
  | .btneR src1 src2 off => splitWord 0x14#6 src2 src1 off
  | .btneI const5 src2 off => splitWord 0x15#6 src2 const5 off
  | .bteR src1 src2 off => splitWord 0x16#6 src2 src1 off
  | .bteI const5 src2 off => splitWord 0x17#6 src2 const5 off
  | .pflddR src1 src2 fdest inc => regWord 0x18#6 src2 fdest src1 (fmemLow 0#2 inc)
  | .pfldlR src1 src2 fdest inc => regWord 0x18#6 src2 fdest src1 (fmemLow 1#2 inc)
  | .pflddI imm src2 fdest inc => immWord 0x19#6 src2 fdest (imm ++ 0#2 ++ BitVec.ofBool inc)
  | .pfldlI imm src2 fdest inc => immWord 0x19#6 src2 fdest (imm ++ 1#1 ++ BitVec.ofBool inc)
  | .br off => lbrWord 0x1A#6 off
  | .call off => lbrWord 0x1B#6 off
  | .bc off => lbrWord 0x1C#6 off
  | .bct off => lbrWord 0x1D#6 off
  | .bnc off => lbrWord 0x1E#6 off
  | .bnct off => lbrWord 0x1F#6 off
  | .adduR src1 src2 dest => regWord 0x20#6 src2 dest src1 0#11
  | .adduI imm src2 dest => immWord 0x21#6 src2 dest imm
  | .subuR src1 src2 dest => regWord 0x22#6 src2 dest src1 0#11
  | .subuI imm src2 dest => immWord 0x23#6 src2 dest imm
  | .addsR src1 src2 dest => regWord 0x24#6 src2 dest src1 0#11
  | .addsI imm src2 dest => immWord 0x25#6 src2 dest imm
  | .subsR src1 src2 dest => regWord 0x26#6 src2 dest src1 0#11
  | .subsI imm src2 dest => immWord 0x27#6 src2 dest imm
  | .shlR src1 src2 dest => regWord 0x28#6 src2 dest src1 0#11
  | .shlI imm src2 dest => immWord 0x29#6 src2 dest imm
  | .shrR src1 src2 dest => regWord 0x2A#6 src2 dest src1 0#11
  | .shrI imm src2 dest => immWord 0x2B#6 src2 dest imm
  | .shraR src1 src2 dest => regWord 0x2E#6 src2 dest src1 0#11
  | .shraI imm src2 dest => immWord 0x2F#6 src2 dest imm
  | .andR src1 src2 dest => regWord 0x30#6 src2 dest src1 0#11
  | .andI imm src2 dest => immWord 0x31#6 src2 dest imm
  | .andnotR src1 src2 dest => regWord 0x34#6 src2 dest src1 0#11
  | .andnotI imm src2 dest => immWord 0x35#6 src2 dest imm
  | .orR src1 src2 dest => regWord 0x38#6 src2 dest src1 0#11
  | .orI imm src2 dest => immWord 0x39#6 src2 dest imm
  | .xorR src1 src2 dest => regWord 0x3C#6 src2 dest src1 0#11
  | .xorI imm src2 dest => immWord 0x3D#6 src2 dest imm
  | .shrd src1 src2 dest => regWord 0x2C#6 src2 dest src1 0#11
  | .bla src1 src2 off => splitWord 0x2D#6 src2 src1 off
  | .andh imm src2 dest => immWord 0x33#6 src2 dest imm
  | .andnoth imm src2 dest => immWord 0x37#6 src2 dest imm
  | .orh imm src2 dest => immWord 0x3B#6 src2 dest imm
  | .xorh imm src2 dest => immWord 0x3F#6 src2 dest imm
  | .lock => coreEscapeWord 0#5 1#3
  | .calli src1 => coreEscapeWord src1 2#3
  | .intovr => coreEscapeWord 0#5 4#3
  | .unlock => coreEscapeWord 0#5 7#3
  | .pfmam dpc o => fp3Word false (0#3 ++ dpc) o
  | .pfmsm dpc o => fp3Word false (1#3 ++ dpc) o
  | .pfam dpc o => fp3Word true (0#3 ++ dpc) o
  | .pfsm dpc o => fp3Word true (1#3 ++ dpc) o
  | .fmul o => fp3Word false 0x20#7 o
  | .pfmul o => fp3Word true 0x20#7 o
  | .fmlow o => fpWord o.src2 o.dest o.src1 false o.d true true 0x21#7
  | .frcp o => fp2Src2Word 0x22#7 o
  | .frsqr o => fp2Src2Word 0x23#7 o
  | .pfmul3 o => fpWord o.src2 o.dest o.src1 true o.d true true 0x24#7
  | .fadd o => fp3Word false 0x30#7 o
  | .pfadd o => fp3Word true 0x30#7 o
  | .fsub o => fp3Word false 0x31#7 o
  | .pfsub o => fp3Word true 0x31#7 o
  | .fix o => fp2Word false 0x32#7 o
  | .pfix o => fp2Word true 0x32#7 o
  | .famov o => fp2Word false 0x33#7 o
  | .pfamov o => fp2Word true 0x33#7 o
  | .ftrunc o => fp2Word false 0x3A#7 o
  | .pftrunc o => fp2Word true 0x3A#7 o
  | .pfgt o => fpWord o.src2 o.dest o.src1 true o.d o.s.bit false 0x34#7
  | .pfle o => fpWord o.src2 o.dest o.src1 true o.d o.s.bit true 0x34#7
  | .pfeq o => fp3Word true 0x35#7 o
  | .fxfr o => fpWord 0#5 o.dest o.src false o.d false false 0x40#7
  | .fiadd o => fp3Word false 0x49#7 o
  | .pfiadd o => fp3Word true 0x49#7 o
  | .fisub o => fp3Word false 0x4D#7 o
  | .pfisub o => fp3Word true 0x4D#7 o
  | .faddp o => fp3Word false 0x50#7 o
  | .pfaddp o => fp3Word true 0x50#7 o
  | .faddz o => fp3Word false 0x51#7 o
  | .pfaddz o => fp3Word true 0x51#7 o
  | .fzchkl o => fp3Word false 0x57#7 o
  | .pfzchkl o => fp3Word true 0x57#7 o
  | .form o => fp2Word false 0x5A#7 o
  | .pform o => fp2Word true 0x5A#7 o
  | .fzchks o => fp3Word false 0x5F#7 o
  | .pfzchks o => fp3Word true 0x5F#7 o

/-! ### The side table of per-opcode flags (R131) -/

/-- The flag record the decoder yields with an instruction (R131). -/
structure OpFlags where
  dslot : Bool
  fp : Bool
  ctrlw : Bool
deriving DecidableEq, Repr

/-- The flag record of a word, computed from the word alone (R131): `dslot` for br, call, bc.t, bnc.t, bla, bri and
calli, `fp` for every FP-escape word, `ctrlw` for st.c. -/
def opFlags (w : Word) : OpFlags :=
  { dslot := primaryOf w == 0x1A#6 || primaryOf w == 0x1B#6 || primaryOf w == 0x1D#6 || primaryOf w == 0x1F#6 ||
      primaryOf w == 0x2D#6 || primaryOf w == 0x10#6 || (primaryOf w == 0x13#6 && w.extractLsb' 0 3 == 2#3),
    fp := primaryOf w == 0x12#6,
    ctrlw := primaryOf w == 0x0E#6 }

/-! ### Accepted forms (R27, R129, R358, R400) -/

/-- A register number that may name an operand of precision `p`: even for a double (R27). -/
def alignedFor (p : Prec) (r : Reg) : Bool :=
  match p with
  | .single => true
  | .double => !r.getLsbD 0

/-- A register number that may name a quad operand: a multiple of 4 (R27). -/
def alignedQuad (r : Reg) : Bool := !r.getLsbD 0 && !r.getLsbD 1

/-- Pairs ss, sd, dd: fadd, fsub, fmul, frcp, frsqr and the dual operations (R358, R385). -/
def pairArith : Prec → Prec → Bool
  | .double, .single => false
  | _, _ => true

/-- Pairs sd, dd: fix and ftrunc (R358). -/
def pairFix : Prec → Prec → Bool
  | _, .double => true
  | _, .single => false

/-- Pairs ss, dd: pfeq, fiadd, fisub (R358, R400). -/
def pairSame (s r : Prec) : Bool := s == r

/-- Pair dd alone: faddp, faddz, fzchkl, fzchks, form (R400). -/
def pairDouble : Prec → Prec → Bool
  | .double, .double => true
  | _, _ => false

end Sys2Proof
end

