-- ==== Sys2Proof/WellFormed.lean ====
section
/-! DEFINITION. The forms the XR defines, among those that decode to a handler: an instruction that is not well formed
is one the spec refuses (spec/30_encoding.md R129, spec/10_state.md R27). The destination of a pipelined instruction is
not checked here: it receives the entry leaving the pipeline, whose own precision decides (R312). -/

namespace Sys2Proof

/-- A scalar instruction of two sources: the pair is accepted and every register is aligned for its precision. -/
def scalar3Ok (pair : Prec → Prec → Bool) (o : Fp3) : Bool :=
  pair o.s o.r && alignedFor o.s o.src1 && alignedFor o.s o.src2 && alignedFor o.r o.dest

/-- A pipelined instruction of two sources: the pair is accepted and the sources are aligned. -/
def piped3Ok (pair : Prec → Prec → Bool) (o : Fp3) : Bool :=
  pair o.s o.r && alignedFor o.s o.src1 && alignedFor o.s o.src2

/-- A scalar instruction of one source. -/
def scalar2Ok (pair : Prec → Prec → Bool) (o : Fp2) : Bool :=
  pair o.s o.r && alignedFor o.s o.src && alignedFor o.r o.dest

/-- A pipelined instruction of one source. -/
def piped2Ok (pair : Prec → Prec → Bool) (o : Fp2) : Bool := pair o.s o.r && alignedFor o.s o.src

/-- pfgt and pfle: sources aligned at S (R358). -/
def cmpOk (o : FpCmp) : Bool := alignedFor o.s o.src1 && alignedFor o.s o.src2

/-- A dual operation: pair ss, sd or dd; sources and destination aligned at R (R385; that R is the precision meant is DEDUCED,
notes/assumptions/24.md). -/
def dualOk (o : Fp3) : Bool :=
  pairArith o.s o.r && alignedFor o.r o.src1 && alignedFor o.r o.src2 && alignedFor o.r o.dest

/-- The instruction is a form the XR defines (R129). -/
def wellFormed : Instr → Bool
  | .ldbR .. | .ldbI .. | .ixfr .. | .stb .. | .ldsR .. | .ldlR .. | .ldsI .. | .ldlI .. | .sts .. | .stl .. => true
  | .flddR _ _ fdest _ | .flddI _ _ fdest _ => alignedFor .double fdest
  | .fldlR .. | .fldlI .. => true
  | .fldqR _ _ fdest _ | .fldqI _ _ fdest _ => alignedQuad fdest
  | .fstdR _ _ fdest _ | .fstdI _ _ fdest _ => alignedFor .double fdest
  | .fstlR .. | .fstlI .. => true
  | .fstqR _ _ fdest _ | .fstqI _ _ fdest _ => alignedQuad fdest
  | .ldc .. | .flush .. | .stc .. => true
  | .pstd fdest _ _ _ => alignedFor .double fdest
  | .bri .. | .trap .. | .btneR .. | .btneI .. | .bteR .. | .bteI .. => true
  | .pflddR .. | .pfldlR .. | .pflddI .. | .pfldlI .. => true
  | .br .. | .call .. | .bc .. | .bct .. | .bnc .. | .bnct .. => true
  | .adduR .. | .adduI .. | .subuR .. | .subuI .. | .addsR .. | .addsI .. | .subsR .. | .subsI .. => true
  | .shlR .. | .shlI .. | .shrR .. | .shrI .. | .shraR .. | .shraI .. | .shrd .. => true
  | .andR .. | .andI .. | .andnotR .. | .andnotI .. | .orR .. | .orI .. | .xorR .. | .xorI .. => true
  | .andh .. | .andnoth .. | .orh .. | .xorh .. => true
  | .bla .. | .lock | .calli .. | .intovr | .unlock => true
  | .pfmam _ o | .pfmsm _ o | .pfam _ o | .pfsm _ o => dualOk o
  | .fmul o | .fadd o | .fsub o => scalar3Ok pairArith o
  | .pfmul o | .pfadd o | .pfsub o => piped3Ok pairArith o
  | .fmlow o => alignedFor .double o.src1 && alignedFor .double o.src2 && alignedFor .double o.dest
  | .pfmul3 o => alignedFor .double o.src1 && alignedFor .double o.src2
  | .frcp o | .frsqr o => scalar2Ok pairArith o
  | .fix o | .ftrunc o => scalar2Ok pairFix o
  | .pfix o | .pftrunc o => piped2Ok pairFix o
  | .famov o => alignedFor o.s o.src && alignedFor o.r o.dest
  | .pfamov o => alignedFor o.s o.src
  | .pfgt o | .pfle o => cmpOk o
  | .pfeq o => piped3Ok pairSame o
  | .fxfr .. => true
  | .fiadd o | .fisub o => scalar3Ok pairSame o
  | .pfiadd o | .pfisub o => piped3Ok pairSame o
  | .faddp o | .faddz o | .fzchkl o | .fzchks o => scalar3Ok pairDouble o
  | .pfaddp o | .pfaddz o | .pfzchkl o | .pfzchks o => piped3Ok pairDouble o
  | .form o => scalar2Ok pairDouble o
  | .pform o => piped2Ok pairDouble o

end Sys2Proof
end

