-- ==== Sys2Proof/Machine/State.lean ====
section
/-! DEFINITION. The machine's state, as plain data, holding everything the spec gives the machine (spec/10_state.md,
spec/60_exceptions.md, spec/70_reset_and_hazards.md R470 and R471); the reasons a step can stop; the state after
reset. -/

namespace Sys2Proof.Machine

/-- The classes of synchronous trap, each a bit of psr (R433). -/
inductive TrapClass where
  | it   -- instruction trap, psr bit 8
  | iat  -- instruction access trap, psr bit 10
  | dat  -- data access trap, psr bit 11
  | ft   -- floating-point trap, psr bit 12
deriving DecidableEq, Repr

/-- The reasons of the cause table (R431, causes 1 to 9). -/
inductive TrapReason where
  | undefinedOpcode
  | trapInstruction
  | integerOverflow
  | instructionAccess
  | unaligned
  | breakpoint
  | translation
  | fpSource
  | fpResult
deriving DecidableEq, Repr

/-- The access type a memory trap records (R58, R89). -/
inductive AccessKind where
  | read
  | write
  | execute
deriving DecidableEq, Repr

/-- The information a trap records (R431, last column). -/
inductive TrapDetail where
  | nothing
  | word (w : Word)
  | access (va : Word) (kind : AccessKind)
deriving DecidableEq, Repr

/-- The trap-information record (R58): class, reason and information of the last synchronous trap raised. -/
structure TrapInfo where
  cls : TrapClass
  reason : TrapReason
  detail : TrapDetail
deriving DecidableEq, Repr

/-- A register of the floating-point unit: a 64-bit pattern and the precision with which it was written; no precision
when nothing has been written to it at one (R50). -/
structure Tagged where
  value : Dword
  tag : Option Prec
deriving DecidableEq, Repr

/-- A pipeline entry: a value and its declared precision; a single value occupies bits 31:0 (R52). -/
structure Entry where
  value : Dword
  prec : Prec
deriving DecidableEq, Repr

/-- A three-stage pipeline; `none` is the spec's `empty` (R52). -/
structure Pipe where
  s1 : Option Entry
  s2 : Option Entry
  s3 : Option Entry
deriving DecidableEq, Repr

/-- A pipeline whose every stage is empty (R52). -/
def Pipe.empty : Pipe := { s1 := none, s2 := none, s3 := none }

/-- One access on the bus, as the model records it (R70, R77). -/
structure BusAccess where
  write : Bool
  addr : Word
  bytes : Nat
  value : Word
deriving DecidableEq, Repr

/-- Physical memory: (address, byte) pairs in one canonical form (`Memory.wf`): addresses strictly rising and below 2^32, no
byte equal to what an unlisted address reads as (R76). -/
structure Memory where
  cells : List Host.Cell
deriving DecidableEq, Repr

/-- The state of the machine. -/
structure State where
  /-- The general registers r0 to r31 (R20); the slot of r0 is never read (R21). -/
  gpr : Vector Word 32
  /-- The floating-point array f0 to f31 (R24); the slots of f0 and f1 are never read (R26). -/
  fpr : Vector Word 32
  /-- The program counter (R40). -/
  pc : Word
  /-- The fault instruction register (R35). -/
  fir : Word
  /-- The processor status register (R30). -/
  psr : Word
  /-- The directory base register (R31). -/
  dirbase : Word
  /-- The debug register (R32). -/
  db : Word
  /-- The floating-point status register without its four precision bits, which are views of the pipelines (R33, R318). -/
  fsr : Word
  /-- The writable fields of the extended processor status register; its TYPE, STEP and DCS fields are the parameters' and its
  INT bit is the pin (R34). -/
  epsr : Word
  /-- The constant register KR (R50). -/
  kr : Tagged
  /-- The constant register KI (R50). -/
  ki : Tagged
  /-- The temporary register T (R50). -/
  t : Tagged
  /-- The merge register of the graphics unit (R50). -/
  merge : Tagged
  /-- The adder pipeline A (R52). -/
  adder : Pipe
  /-- The multiplier pipeline M (R52). -/
  multiplier : Pipe
  /-- The load pipeline L (R52). -/
  loader : Pipe
  /-- The one-stage graphics/integer pipeline G (R52). -/
  graphics : Option Entry
  /-- A synchronous trap was raised by the instruction being executed (R55). -/
  pendSync : Bool
  /-- That trap was raised in a delay slot (R55). -/
  pendDslot : Bool
  /-- An external interrupt is latched (R55). -/
  pendExt : Bool
  /-- The trap-address-source indicator (R56). -/
  firTrap : Bool
  /-- The delay-slot target latch (R57). -/
  dslotTarget : Word
  /-- The trap-information record (R58). -/
  trapInfo : TrapInfo
  /-- The level of the INT input (R61, R440). -/
  intPin : Bool
  /-- The level of the HOLD input (R61, R464). -/
  holdPin : Bool
  /-- The level of the RESET input (R61, R473). -/
  resetPin : Bool
  /-- Physical memory behind the bus (R70, R76). -/
  mem : Memory
  /-- The record of bus accesses, newest first (R70, R77). -/
  bus : List BusAccess
  /-- The model's own field: how many free values have been used. -/
  freeCount : Nat
  /-- The model's own field: the word the last instruction fetch answered, which a trap may record (R431). -/
  fetched : Word
  /-- The model's own field: the parameters R9 makes arguments of the model. No step changes them. -/
  params : Params
deriving DecidableEq, Repr

/-- The reasons the machine stops with no next step. -/
inductive Fault where
  /-- Raised by an instruction fetch at an address whose bits 1:0 are not zero: the spec says the core is stuck (R95,
  R41). Safe: the model stops where the hardware's behaviour has no source. -/
  | stuckFetch
deriving DecidableEq, Repr

/-- The forms the spec gives no meaning (`refuse`, R13). Each is safe: the model claims nothing of the hardware there. -/
inductive Refusal where
  /-- Raised by `exec` for an instruction that has no meaning yet. Safe. -/
  | notModelled (mnemonic : String)
  /-- Raised by the driver and the delay slot for a form `Instr` does not hold (R129). Safe. -/
  | reservedForm (form : ReservedForm)
  /-- Raised by an instruction with a precision pair it does not accept (R129, R358, R400). Safe. -/
  | precisionPair
  /-- Raised by an instruction that names an odd register for a double or a non-multiple of 4 for a quad (R27). Safe. -/
  | misalignedFpRegister
  /-- Raised by a dual operation whose pipeline, T or K operand has the other precision (R386). Safe. -/
  | mixedPrecision
  /-- Raised by pst.d and faddp when psr.PS = 3 (R173, R403). Safe. -/
  | pixelSize3
  /-- Raised by a delayed branch whose slot holds a control transfer (R241). Safe. -/
  | controlTransferInSlot
  /-- Raised by call and calli whose slot reads or writes r1 (R244). Safe. -/
  | linkRegisterInCallSlot
  /-- Raised by an FP-escape word with D = 1 when the parameter DUAL_MODE_POLICY is `refuse` (R122). Safe. -/
  | dualInstructionMode
deriving DecidableEq, Repr

/-- The outcome of part of an instruction: a value and a state; a synchronous trap, with the effects committed before it
(R13, R434); a stop. -/
inductive Exec (α : Type) where
  | done (a : α) (s : State)
  | trapped (s : State)
  | faulted (f : Fault)
  | refused (r : Refusal)

/-- Continue with the value and the state of a part that completed; a trap or a stop abandons the rest (R13). -/
def Exec.bind {α β : Type} (x : Exec α) (k : α → State → Exec β) : Exec β :=
  match x with
  | .done a s => k a s
  | .trapped s => .trapped s
  | .faulted f => .faulted f
  | .refused r => .refused r

/-- The machine with some parameters right after reset (R470, R471). The registers R471 leaves without a value, the pins, and the
model's own fields hold the values notes/assumptions/1.md, 2.md, 3.md, 5.md and 13.md name. -/
def State.resetWith (p : Params) : State :=
  { gpr := Vector.replicate 32 0#32
    fpr := Vector.replicate 32 0#32
    pc := p.resetVector
    fir := 0#32
    psr := 0#32
    dirbase := 0#32
    db := 0#32
    fsr := 0#32
    epsr := 0#32
    kr := { value := 0#64, tag := none }
    ki := { value := 0#64, tag := none }
    t := { value := 0#64, tag := none }
    merge := { value := p.mergeReset, tag := none }
    adder := Pipe.empty
    multiplier := Pipe.empty
    loader := Pipe.empty
    graphics := none
    pendSync := false
    pendDslot := false
    pendExt := false
    firTrap := false
    dslotTarget := 0#32
    trapInfo := { cls := .it, reason := .undefinedOpcode, detail := .nothing }
    intPin := false
    holdPin := false
    resetPin := false
    mem := { cells := [] }
    bus := []
    freeCount := 0
    fetched := 0#32
    params := p }

/-- The machine right after reset, with the parameters at their defaults (R9, R470). -/
def State.reset : State := State.resetWith defaultParams

end Sys2Proof.Machine
end

