-- ==== Sys2Proof/Machine/Memory.lean ====
section
/-! DEFINITION. Physical memory by the byte, and the halfwords and words made of its bytes in either byte order
(spec/20_memory.md R71, R76). -/

namespace Sys2Proof.Machine

/-- What an address that is not listed reads as: DESIGN CHOICE, notes/assumptions/4.md. -/
def unlistedByte : Byte := 0#8

/-- The byte a list of cells holds at an address. -/
def readCells : List Host.Cell → Nat → Byte
  | [], _ => unlistedByte
  | (a, b) :: rest, k => if k = a then b else readCells rest k

/-- A list of cells with the byte at an address replaced, in canonical form if the list was. -/
def writeCells : List Host.Cell → Nat → Byte → List Host.Cell
  | [], k, v => if v = unlistedByte then [] else [(k, v)]
  | (a, b) :: rest, k, v =>
    if k < a then (if v = unlistedByte then (a, b) :: rest else (k, v) :: (a, b) :: rest)
    else if k = a then (if v = unlistedByte then rest else (k, v) :: rest)
    else (a, b) :: writeCells rest k v

/-- The canonical form from an address on: addresses at least `lo`, strictly rising, below 2^32; no unlisted byte listed. -/
def cellsWf : Nat → List Host.Cell → Bool
  | _, [] => true
  | lo, (a, b) :: rest => decide (lo ≤ a) && decide (a < 2 ^ 32) && !(b == unlistedByte) && cellsWf (a + 1) rest

/-- Memory is in its canonical form. -/
def Memory.wf (m : Memory) : Bool := cellsWf 0 m.cells

/-- The byte at a physical address (R71). -/
def Memory.byteAt (m : Memory) (a : Word) : Byte := readCells m.cells a.toNat

/-- Memory with the byte at a physical address replaced. -/
def Memory.setByte (m : Memory) (a : Word) (v : Byte) : Memory := { cells := writeCells m.cells a.toNat v }

/-- The halfword at a physical address: in big-endian order the byte at the address is the most significant (R71). -/
def Memory.half (m : Memory) (big : Bool) (a : Word) : BitVec 16 :=
  if big then m.byteAt a ++ m.byteAt (a + 1#32) else m.byteAt (a + 1#32) ++ m.byteAt a

/-- The word at a physical address (R71). -/
def Memory.word (m : Memory) (big : Bool) (a : Word) : Word :=
  wordOfBytes big (m.byteAt a) (m.byteAt (a + 1#32)) (m.byteAt (a + 2#32)) (m.byteAt (a + 3#32))

/-- Memory with a halfword written (R71). -/
def Memory.setHalf (m : Memory) (big : Bool) (a : Word) (v : BitVec 16) : Memory :=
  if big then (m.setByte a (v.extractLsb' 8 8)).setByte (a + 1#32) (v.extractLsb' 0 8)
  else (m.setByte a (v.extractLsb' 0 8)).setByte (a + 1#32) (v.extractLsb' 8 8)

/-- Memory with a word written (R71). -/
def Memory.setWord (m : Memory) (big : Bool) (a : Word) (v : Word) : Memory :=
  (((m.setByte a (byteOfWord big v 0)).setByte (a + 1#32) (byteOfWord big v 1)).setByte (a + 2#32)
    (byteOfWord big v 2)).setByte (a + 3#32) (byteOfWord big v 3)

end Sys2Proof.Machine
end

