-- ==== Sys2Proof/Machine/Ops.lean ====
section
/-! DEFINITION. The named operations over the state: registers and their fields, the control registers as ld.c and st.c
see them, raising and taking a trap and returning from one, the interrupt sample, the end of a step, free values, reset
and the pins. -/

namespace Sys2Proof.Machine

/-! ### Fields of a word -/

/-- A word with bit `i` set to `b`. -/
def setBit (w : Word) (i : Nat) (b : Bool) : Word :=
  (w &&& ~~~(1#32 <<< i)) ||| ((BitVec.ofBool b).setWidth 32 <<< i)

/-- A word with the field of `n` bits from bit `lo` set to `v`. -/
def setField {n : Nat} (w : Word) (lo : Nat) (v : BitVec n) : Word :=
  (w &&& ~~~((BitVec.allOnes n).setWidth 32 <<< lo)) ||| (v.setWidth 32 <<< lo)

/-! ### General and floating-point registers -/

/-- `x[i]`: r0 reads as zero (R21). -/
def State.x (s : State) (i : Reg) : Word := if i = 0#5 then 0#32 else s.gpr[i.toNat]'i.isLt

/-- `x[i] <- v`: a write to r0 is discarded (R21). -/
def State.setX (s : State) (i : Reg) (v : Word) : State :=
  { s with gpr := if i = 0#5 then s.gpr else s.gpr.set i.toNat v i.isLt }

/-- f0 and f1 are hard-wired (R26). -/
def hardF (i : Reg) : Bool := i.extractLsb' 1 4 == 0#4

/-- `f[i]`: f0 and f1 read as zero (R26). -/
def State.f (s : State) (i : Reg) : Word := if hardF i then 0#32 else s.fpr[i.toNat]'i.isLt

/-- `f[i] <- v`: writes to f0 and f1 are discarded; no other slot changes (R25, R26). -/
def State.setF (s : State) (i : Reg) (v : Word) : State :=
  { s with fpr := if hardF i then s.fpr else s.fpr.set i.toNat v i.isLt }

/-- `fd[i]`, i even: the pair f[i+1] ∥ f[i] (R24). -/
def State.fd (s : State) (i : Reg) : Dword := s.f (i + 1#5) ++ s.f i

/-- The pair of an even register written as two words: f[i] takes the low one, f[i+1] the high one (R24). -/
def State.setPair (s : State) (i : Reg) (low high : Word) : State := (s.setF i low).setF (i + 1#5) high

/-- `fd[i] <- v`, i even: f[i] takes bits 31:0 and f[i+1] bits 63:32 (R11, R25). -/
def State.setFd (s : State) (i : Reg) (v : Dword) : State :=
  s.setPair i (v.extractLsb' 0 32) (v.extractLsb' 32 32)

/-- `fr(i, p)`: a single occupies bits 31:0 (R11). -/
def State.fr (s : State) (p : Prec) (i : Reg) : Dword :=
  match p with
  | .single => (s.f i).setWidth 64
  | .double => s.fd i

/-- `fw(i, p, v)` (R11). -/
def State.fw (s : State) (p : Prec) (i : Reg) (v : Dword) : State :=
  match p with
  | .single => s.setF i (v.extractLsb' 0 32)
  | .double => s.setFd i v

/-! ### Fields of psr (R30) -/

def State.breakRead (s : State) : Bool := s.psr.getLsbD 0
def State.breakWrite (s : State) : Bool := s.psr.getLsbD 1
def State.cc (s : State) : Bool := s.psr.getLsbD 2
def State.lcc (s : State) : Bool := s.psr.getLsbD 3
def State.im (s : State) : Bool := s.psr.getLsbD 4
def State.pim (s : State) : Bool := s.psr.getLsbD 5
def State.user (s : State) : Bool := s.psr.getLsbD 6
def State.pu (s : State) : Bool := s.psr.getLsbD 7
def State.knf (s : State) : Bool := s.psr.getLsbD 15
/-- The shift count SC. -/
def State.sc (s : State) : BitVec 5 := s.psr.extractLsb' 17 5
/-- The pixel size PS. -/
def State.ps (s : State) : BitVec 2 := s.psr.extractLsb' 22 2
/-- The pixel mask PM. -/
def State.pm (s : State) : BitVec 8 := s.psr.extractLsb' 24 8
/-- The five trap bits IT, IN, IAT, DAT, FT (R433). -/
def State.trapBits (s : State) : BitVec 5 := s.psr.extractLsb' 8 5

def State.setCC (s : State) (b : Bool) : State := { s with psr := setBit s.psr 2 b }
def State.setLCC (s : State) (b : Bool) : State := { s with psr := setBit s.psr 3 b }
def State.clearKNF (s : State) : State := { s with psr := setBit s.psr 15 false }
def State.setSC (s : State) (v : BitVec 5) : State := { s with psr := setField s.psr 17 v }
def State.setPM (s : State) (v : BitVec 8) : State := { s with psr := setField s.psr 24 v }

/-! ### Fields of dirbase (R31), fsr (R33) and epsr (R34) -/

/-- ATE: address translation enable. -/
def State.ate (s : State) : Bool := s.dirbase.getLsbD 0
def State.setBL (s : State) (b : Bool) : State := { s with dirbase := setBit s.dirbase 4 b }

def State.fz (s : State) : Bool := s.fsr.getLsbD 0
def State.ti (s : State) : Bool := s.fsr.getLsbD 1
def State.fte (s : State) : Bool := s.fsr.getLsbD 5
def State.se (s : State) : Bool := s.fsr.getLsbD 8
def State.setSE (s : State) (b : Bool) : State := { s with fsr := setBit s.fsr 8 b }

/-- The rounding directions of fsr.RM (R340). -/
inductive RMode where
  | nearest
  | down
  | up
  | zero
deriving DecidableEq, Repr

/-- fsr.RM: 0 nearest, 1 toward −∞, 2 toward +∞, 3 toward zero (R340). -/
def State.rm (s : State) : RMode :=
  match s.fsr.extractLsb' 2 2 with
  | 0#2 => .nearest
  | 1#2 => .down
  | 2#2 => .up
  | _ => .zero

def State.wp (s : State) : Bool := s.epsr.getLsbD 14
/-- epsr.BE: big-endian data accesses (R72). -/
def State.be (s : State) : Bool := s.epsr.getLsbD 23
/-- epsr.OF: integer overflow (R201). -/
def State.ovf (s : State) : Bool := s.epsr.getLsbD 24
def State.setOF (s : State) (b : Bool) : State := { s with epsr := setBit s.epsr 24 b }

/-! ### The control registers as ld.c and st.c see them (R280, R282, R285) -/

/-- The bits of psr that are not reserved (R30). -/
def psrDefined : Word := 0xFFFEFFFF#32
/-- The fields of psr a supervisor-mode st.c writes: all but the trap bits and bit 16 (R285). -/
def psrSupervisorMask : Word := 0xFFFEE0FF#32
/-- The fields of psr a user-mode st.c writes: CC, LCC, SC, PS, PM (R285). -/
def psrUserMask : Word := 0xFFFE000C#32
/-- The stored fields of dirbase: all but ITI, which reads 0, and the reserved bit 6 (R31). -/
def dirbaseMask : Word := 0xFFFFFF9F#32
/-- The stored fields of fsr: all but the reserved bits and the four precision bits (R33). -/
def fsrMask : Word := 0x01FFFFBF#32
/-- The writable fields of epsr: IL, WP, BE, OF (R34). -/
def epsrMask : Word := 0x01806000#32

/-- A word with the bits of a mask replaced by another word's. -/
def maskedWrite (mask old new : Word) : Word := (old &&& ~~~mask) ||| (new &&& mask)

/-- The entry is a double (R318). -/
def doubleEntry : Option Entry → Bool
  | some e => e.prec == .double
  | none => false

/-- ARP: A[3] holds a double entry (R318). -/
def State.arp (s : State) : Bool := doubleEntry s.adder.s3
/-- MRP: M[3] holds a double entry, or M[3] is empty and M[2] holds one (R318). -/
def State.mrp (s : State) : Bool := doubleEntry s.multiplier.s3 || (s.multiplier.s3.isNone && doubleEntry s.multiplier.s2)
/-- LRP: L[3] holds a double entry (R318). -/
def State.lrp (s : State) : Bool := doubleEntry s.loader.s3
/-- IRP: G[1] holds a double entry (R318). -/
def State.irp (s : State) : Bool := doubleEntry s.graphics

/-- psr as ld.c reads it: reserved bits 0 (R280). -/
def State.readPsr (s : State) : Word := s.psr &&& psrDefined
/-- dirbase as ld.c reads it: ITI and the reserved bit 0 (R280, R284). -/
def State.readDirbase (s : State) : Word := s.dirbase &&& dirbaseMask
/-- fsr as ld.c reads it: the stored fields and the four precision bits (R280, R318). -/
def State.readFsr (s : State) : Word :=
  setBit (setBit (setBit (setBit (s.fsr &&& fsrMask) 27 s.lrp) 28 s.irp) 29 s.mrp) 30 s.arp
/-- epsr as ld.c reads it: TYPE, STEP and DCS of the parameters, INT the pin's level (R34, R280, R440). -/
def State.readEpsr (s : State) : Word :=
  setField (setBit (setField (setField (s.epsr &&& epsrMask) 0 s.params.epsrProcType) 8 s.params.epsrStepping) 17 s.intPin) 18
    s.params.epsrDcs

/-- `ReadFir()`: the value, and the state after the read (R281). -/
def State.firValue (s : State) : Word := if s.firTrap then s.fir else s.pc
/-- The state after a read of fir: `fir_trap` is cleared; fir holds what was returned (R281). -/
def State.afterReadFir (s : State) : State :=
  { s with firTrap := false, fir := s.firValue }

/-! ### Free values -/

/-- The next free value (R13's `undef`, R207's `any value`, R341's NAN_RESULT). -/
def State.free (s : State) : Dword := Config.freeValue s.freeCount
/-- The state after the next free value has been used. -/
def State.nextFree (s : State) : State := { s with freeCount := s.freeCount + 1 }

/-! ### Traps (R432, R441, R450) -/

/-- The psr bit of a trap class (R433). -/
def TrapClass.bit : TrapClass → Nat
  | .it => 8
  | .iat => 10
  | .dat => 11
  | .ft => 12

/-- The state with a synchronous trap recorded: the class bit, `pend_sync` and the trap information (R432). -/
def State.recordTrap (s : State) (c : TrapClass) (reason : TrapReason) (detail : TrapDetail) : State :=
  { s with psr := setBit s.psr c.bit true, pendSync := true, trapInfo := { cls := c, reason := reason, detail := detail } }

/-- `raise C(reason, info)`: record the trap and abandon the rest of the instruction (R13, R432). -/
def raise {α : Type} (c : TrapClass) (reason : TrapReason) (detail : TrapDetail) (s : State) : Exec α :=
  .trapped (s.recordTrap c reason detail)

/-- `SampleInterrupt()` (R441). -/
def State.sampleInterrupt (s : State) : State :=
  if s.intPin && s.im && Config.intSample then { s with psr := setBit s.psr 9 true, pendExt := true } else s

/-- psr after trap entry: PU and PIM take U and IM; U, IM, DIM and DS are cleared (R450). -/
def psrAtTrapEntry (psr : Word) : Word :=
  setBit (setBit (setBit (setBit (setBit (setBit psr 7 (psr.getLsbD 6)) 5 (psr.getLsbD 4)) 6 false) 4 false) 14 false) 13 false

/-- The value fir takes at trap entry: the delay-slot instruction, the trapping instruction, or the next instruction, where
`target` is the address a `pc <-` of the step set (R450, R452). -/
def State.firAtTrapEntry (s : State) (savepc : Word) (target : Option Word) : Word :=
  if s.pendSync && s.pendDslot then savepc + 4#32
  else if s.pendSync then savepc
  else target.getD (savepc + 4#32)

/-- `TrapEntry()` (R450): TAKING AN EXCEPTION, the one operation for every cause (R430). -/
def State.trapEntry (s : State) (savepc : Word) (target : Option Word) : State :=
  { s with
    fir := s.firAtTrapEntry savepc target
    firTrap := true
    psr := psrAtTrapEntry s.psr
    pendSync := false
    pendDslot := false
    pendExt := false
    pc := s.params.trapVector }

/-- psr after the trap return: U and IM take PU and PIM; the five trap bits are cleared (R250, R455). -/
def psrAtTrapReturn (psr : Word) : Word :=
  setField (setBit (setBit psr 6 (psr.getLsbD 7)) 4 (psr.getLsbD 5)) 8 0#5

/-- The trap return of bri: it acts when no trap is pending and some trap bit is set (R250). -/
def State.trapReturn (s : State) : State :=
  if s.trapBits = 0#5 then s else { s with psr := psrAtTrapReturn s.psr }

/-- The end of a step: the interrupt sample, then trap entry if a trap is pending, else the pc advances to the target or to
the next word (R132). -/
def State.endStep (s : State) (savepc : Word) (target : Option Word) : State :=
  if s.sampleInterrupt.pendSync || s.sampleInterrupt.pendExt then s.sampleInterrupt.trapEntry savepc target
  else { s.sampleInterrupt with pc := target.getD (savepc + 4#32) }

/-- The outcome of a step. -/
abbrev StepOutcome := Host.Outcome State Fault Refusal

/-- Finish a step whose instruction does not set the pc (R132). -/
def finish (savepc : Word) (r : Exec Unit) : StepOutcome :=
  match r with
  | .done _ s => .next (s.endStep savepc none)
  | .trapped s => .next (s.endStep savepc none)
  | .faulted f => .fault f
  | .refused q => .refused q

/-- Finish a step whose instruction may set the pc: the value is the target of its `pc <-`, if any (R60, R132). -/
def finishAt (savepc : Word) (r : Exec (Option Word)) : StepOutcome :=
  match r with
  | .done target s => .next (s.endStep savepc target)
  | .trapped s => .next (s.endStep savepc none)
  | .faulted f => .fault f
  | .refused q => .refused q

/-! ### FP-escape words: KNF and the D bit (R122, R132, R133) -/

/-- DUAL_MODE_POLICY admits an FP-escape word with this D bit (R122). -/
def State.admits (s : State) (d : Bool) : Bool := !(d && s.params.dualModePolicy == .refuse)

/-- Execute an FP-escape instruction: with psr.KNF = 1 it is suppressed and KNF cleared; with D = 1 under DUAL_MODE_POLICY =
refuse it is refused; otherwise its rule is executed. -/
def fpEscape (d : Bool) (body : State → Exec Unit) (s : State) : Exec Unit :=
  if s.knf then .done () s.clearKNF
  else if s.admits d then body s
  else .refused .dualInstructionMode

/-! ### Reset, the pins and the introspection surface (R440, R462, R464, R470 to R473) -/

/-- The device reset: the state of R470 and R471 from any prior state. Memory, the bus record, the pins, the count of
free values and the parameters are not state that reset changes. -/
def State.deviceReset (s : State) : State :=
  { State.resetWith s.params with
    intPin := s.intPin, holdPin := s.holdPin, resetPin := s.resetPin, mem := s.mem, bus := s.bus, freeCount := s.freeCount }

/-- Assertion of RESET establishes the reset state (R473). -/
def State.assertReset (s : State) : State := { s.deviceReset with resetPin := true }
/-- Deassertion of RESET: the reset state holds again (R473). -/
def State.deassertReset (s : State) : State := { s.deviceReset with resetPin := false }
/-- Assertion or deassertion of HOLD (R464). -/
def State.setHold (s : State) (level : Bool) : State := { s with holdPin := level }
/-- Assertion or deassertion of INT (R440). -/
def State.setInt (s : State) (level : Bool) : State := { s with intPin := level }

/-- What `snapshot()` returns (R462). -/
structure Snapshot where
  general : List Word
  floating : List Word
  fir : Word
  psr : Word
  dirbase : Word
  db : Word
  fsr : Word
  epsr : Word
  pc : Word
  kr : Tagged
  ki : Tagged
  t : Tagged
  merge : Tagged
  adder : Pipe
  multiplier : Pipe
  loader : Pipe
  graphics : Option Entry
  pendSync : Bool
  pendDslot : Bool
  pendExt : Bool
  firTrap : Bool
  dslotTarget : Word
  trapInfo : TrapInfo
deriving DecidableEq, Repr

/-- The 32 register numbers, in order. -/
def allRegs : List Reg := (List.range 32).map (BitVec.ofNat 5)

/-- `snapshot()`: every architectural register, pipeline stage and pending flag; it changes nothing (R462). -/
def State.snapshot (s : State) : Snapshot :=
  { general := allRegs.map s.x, floating := allRegs.map s.f, fir := s.fir, psr := s.readPsr, dirbase := s.readDirbase,
    db := s.db, fsr := s.readFsr, epsr := s.readEpsr, pc := s.pc, kr := s.kr, ki := s.ki, t := s.t, merge := s.merge,
    adder := s.adder, multiplier := s.multiplier, loader := s.loader, graphics := s.graphics, pendSync := s.pendSync,
    pendDslot := s.pendDslot, pendExt := s.pendExt, firTrap := s.firTrap, dslotTarget := s.dslotTarget,
    trapInfo := s.trapInfo }

end Sys2Proof.Machine
end

