-- ==== Sys2Proof/Machine/Access.lean ====
section
/-! DEFINITION. The bus, address translation, data access and instruction fetch (spec/20_memory.md). -/

namespace Sys2Proof.Machine

/-- The widths of a bus access (R70). -/
inductive BusSize where
  | byte
  | half
  | word
deriving DecidableEq, Repr

/-- Bytes of a bus access (R70). -/
def BusSize.bytes : BusSize → Nat
  | .byte => 1
  | .half => 2
  | .word => 4

/-- The base-2 logarithm of the bytes of a bus access. -/
def BusSize.log : BusSize → Nat
  | .byte => 0
  | .half => 1
  | .word => 2

/-- What the bus answers to a read, zero-extended to 32 bits (R70, R71). -/
def Memory.busValue (m : Memory) (n : BusSize) (big : Bool) (pa : Word) : Word :=
  match n with
  | .byte => (m.byteAt pa).setWidth 32
  | .half => (m.half big pa).setWidth 32
  | .word => m.word big pa

/-- Memory after a bus write of the low bytes of a value (R70, R71). -/
def Memory.busStore (m : Memory) (n : BusSize) (big : Bool) (pa v : Word) : Memory :=
  match n with
  | .byte => m.setByte pa (v.extractLsb' 0 8)
  | .half => m.setHalf big pa (v.extractLsb' 0 16)
  | .word => m.setWord big pa v

/-- The state with an access added to the record (R70, R77). -/
def State.record (s : State) (a : BusAccess) : State := { s with bus := a :: s.bus }

/-- `BusRead(pa, n)` (R70): the value and the access recorded. -/
def busRead (n : BusSize) (big : Bool) (pa : Word) (s : State) : Exec Word :=
  .done (s.mem.busValue n big pa)
    (s.record { write := false, addr := pa, bytes := n.bytes, value := s.mem.busValue n big pa })

/-- The low bytes of a value, those a bus write of a width carries (R70). -/
def BusSize.low (n : BusSize) (v : Word) : Word :=
  match n with
  | .byte => (v.extractLsb' 0 8).setWidth 32
  | .half => (v.extractLsb' 0 16).setWidth 32
  | .word => v

/-- `BusWrite(pa, n, v)` (R70). -/
def busWrite (n : BusSize) (big : Bool) (pa v : Word) (s : State) : State :=
  State.record { s with mem := s.mem.busStore n big pa v } { write := true, addr := pa, bytes := n.bytes, value := n.low v }

/-! ### Translation -/

/-- A translation fault: IAT for a fetch, DAT for data, with the address and the access type (R83 to R86, R89). -/
def raiseTranslation {α : Type} (va : Word) (kind : AccessKind) (s : State) : Exec α :=
  match kind with
  | .execute => raise .iat .instructionAccess (.access va .execute) s
  | .read => raise .dat .translation (.access va .read) s
  | .write => raise .dat .translation (.access va .write) s

/-- An entry's P bit (R82). -/
def entryPresent (e : Word) : Bool := e.getLsbD 0
/-- An entry's W bit (R82). -/
def entryWritable (e : Word) : Bool := e.getLsbD 1
/-- An entry's U bit (R82). -/
def entryUser (e : Word) : Bool := e.getLsbD 2
/-- An entry's D bit (R82). -/
def entryDirty (e : Word) : Bool := e.getLsbD 6
/-- An entry's frame address: FRAME with the low 12 bits clear (R82). -/
def entryFrame (e : Word) : Word := e &&& 0xFFFFF000#32

/-- An entry passes the present, write and user checks (R83, R84, R85). -/
def State.entryPasses (s : State) (kind : AccessKind) (e : Word) : Bool :=
  entryPresent e && !(kind == .write && !entryWritable e && (s.user || s.wp)) && !(s.user && !entryUser e)

/-- The address of the page-directory entry of a virtual address (R81). -/
def State.pdeAddr (s : State) (va : Word) : Word := (s.dirbase &&& 0xFFFFF000#32) ||| ((va >>> 22) <<< 2)

/-- The address of the page-table entry of a virtual address, given the directory entry (R81). -/
def pteAddr (pde va : Word) : Word := entryFrame pde ||| (((va >>> 12) &&& 0x3FF#32) <<< 2)

/-- The two-level walk (R81): the directory entry is read and checked before the page-table entry (R102); then the accessed
bits are written in both, and a data write to a page that is not dirty traps (R86); the address is R87's. -/
def walk (va : Word) (kind : AccessKind) (s : State) : Exec Word :=
  (busRead .word s.params.fetchBigEndian (s.pdeAddr va) s).bind fun pde s1 =>
  if !s1.entryPasses kind pde then raiseTranslation va kind s1 else
  (busRead .word s.params.fetchBigEndian (pteAddr pde va) s1).bind fun pte s2 =>
  if !s2.entryPasses kind pte then raiseTranslation va kind s2 else
  let s3 := busWrite .word s.params.fetchBigEndian (s.pdeAddr va) (pde ||| 0x20#32) s2
  let s4 := busWrite .word s.params.fetchBigEndian (pteAddr pde va) (pte ||| 0x20#32) s3
  if kind == .write && !entryDirty pte then raiseTranslation va kind s4 else
  .done (entryFrame pte ||| (va &&& 0xFFF#32)) s4

/-- `Translate(va, kind, is_write)` (R80): the address itself when ATE = 0, else the walk. -/
def translate (va : Word) (kind : AccessKind) (s : State) : Exec Word :=
  if s.ate then walk va kind s else .done va s

/-! ### Data accesses -/

/-- An address is a multiple of 2^k (R79). -/
def aligned (k : Nat) (va : Word) : Bool := va.toNat % 2 ^ k == 0

/-- `BreakMatch(va, 2^k)` (R90). -/
def State.breakMatch (s : State) (k : Nat) (va : Word) : Bool := va >>> k == s.db >>> k

/-- The data breakpoint enabled for an access type: BR for reads, BW for writes (R90). -/
def State.breakEnabled (s : State) (kind : AccessKind) : Bool :=
  match kind with
  | .read => s.breakRead
  | .write => s.breakWrite
  | .execute => false

/-- The checks and the translation of a data access of 2^k bytes, before any access to the data: alignment, breakpoint,
translation, in that order (R91, R92). Answers the physical address. -/
def dataAddress (k : Nat) (kind : AccessKind) (va : Word) (s : State) : Exec Word :=
  if !aligned k va then raise .dat .unaligned (.access va kind) s
  else if s.breakEnabled kind && s.breakMatch k va then raise .dat .breakpoint (.access va kind) s
  else translate va kind s

/-- `MemRead(va, n)` for n of 1, 2 and 4 bytes (R91). -/
def dataRead (n : BusSize) (va : Word) (s : State) : Exec Word :=
  (dataAddress n.log .read va s).bind fun pa s1 => busRead n s1.be pa s1

/-- The 64-bit value of two words in increasing address order (R74). -/
def joinWords (big : Bool) (first second : Word) : Dword := if big then first ++ second else second ++ first

/-- The word of a 64-bit value that stands at the lower address (R74). -/
def firstWord (big : Bool) (v : Dword) : Word := if big then v.extractLsb' 32 32 else v.extractLsb' 0 32

/-- The word of a 64-bit value that stands at the higher address (R74). -/
def secondWord (big : Bool) (v : Dword) : Word := if big then v.extractLsb' 0 32 else v.extractLsb' 32 32

/-- Eight bytes at a physical address as two bus reads in increasing address order (R74). -/
def busRead64 (pa : Word) (s : State) : Exec Dword :=
  (busRead .word s.be pa s).bind fun first s1 =>
  (busRead .word s1.be (pa + 4#32) s1).bind fun second s2 =>
  .done (joinWords s2.be first second) s2

/-- Eight bytes written as two bus writes in increasing address order (R74). -/
def busWrite64 (pa : Word) (v : Dword) (s : State) : State :=
  busWrite .word s.be (pa + 4#32) (secondWord s.be v) (busWrite .word s.be pa (firstWord s.be v) s)

/-- `MemRead(va, 8)` (R74, R91). -/
def dataRead64 (va : Word) (s : State) : Exec Dword :=
  (dataAddress 3 .read va s).bind fun pa s1 => busRead64 pa s1

/-- `MemRead(va, 16)`: the values of fd[N] and fd[N+2] (R74, R91). -/
def dataRead128 (va : Word) (s : State) : Exec (Dword × Dword) :=
  (dataAddress 4 .read va s).bind fun pa s1 =>
  (busRead64 pa s1).bind fun low s2 =>
  (busRead64 (pa + 8#32) s2).bind fun high s3 =>
  .done (low, high) s3

/-- `MemWrite(va, n, v)` for n of 1, 2 and 4 bytes (R92). -/
def dataWrite (n : BusSize) (va v : Word) (s : State) : Exec Unit :=
  (dataAddress n.log .write va s).bind fun pa s1 => .done () (busWrite n s1.be pa v s1)

/-- `MemWrite(va, 8, v)` (R74, R92). -/
def dataWrite64 (va : Word) (v : Dword) (s : State) : Exec Unit :=
  (dataAddress 3 .write va s).bind fun pa s1 => .done () (busWrite64 pa v s1)

/-- `MemWrite(va, 16, v)`, the value given as fd[N] and fd[N+2] (R74, R92). -/
def dataWrite128 (va : Word) (low high : Dword) (s : State) : Exec Unit :=
  (dataAddress 4 .write va s).bind fun pa s1 => .done () (busWrite64 (pa + 8#32) high (busWrite64 pa low s1))

/-! ### Instruction fetch -/

/-- `Fetch(va)` (R94): the core is stuck at an address that is not a multiple of 4 (R95). The word is kept for the record of a trap
(R431). -/
def fetch (va : Word) (s : State) : Exec Word :=
  if !aligned 2 va then .faulted .stuckFetch
  else (translate va .execute s).bind fun pa s1 =>
    (busRead .word s.params.fetchBigEndian pa s1).bind fun w s2 => .done w { s2 with fetched := w }

end Sys2Proof.Machine
end

