-- ==== Sys2Proof/Machine/Operands.lean ====
section
/-! DEFINITION. Operand forms: immediates, displacements, effective addresses, branch targets (spec/30_encoding.md R114 to
R119). -/

namespace Sys2Proof.Machine

/-- `sext_16` of an immediate (R10, R114). -/
def sext16 (imm : BitVec 16) : Word := imm.signExtend 32

/-- `zext_16` of an immediate (R10, R114). -/
def zext16 (imm : BitVec 16) : Word := imm.setWidth 32

/-- An immediate in the high half (R114). -/
def high16 (imm : BitVec 16) : Word := imm ++ 0#16

/-- `sext_8` of a loaded byte, held in the low bits of a word (R162). -/
def sextByte (v : Word) : Word := (v.extractLsb' 0 8).signExtend 32

/-- `sext_16` of a loaded halfword, held in the low bits of a word (R162). -/
def sextHalf (v : Word) : Word := (v.extractLsb' 0 16).signExtend 32

/-- A displacement with its low `k` bits cleared (R118). -/
def clearLow (k : Nat) (off : Word) : Word := off &&& ~~~((1#32 <<< k) - 1#32)

/-- The displacement of a byte access (R118). -/
def dispByte (imm : BitVec 16) : Word := sext16 imm

/-- The displacement of a halfword access, from bits 15:1 of the immediate (R117, R118). -/
def dispHalf (imm : BitVec 15) : Word := clearLow 1 (sext16 (imm ++ 0#1))

/-- The displacement of a word access of an integer register, from bits 15:1 of the immediate (R117, R118). -/
def dispWord (imm : BitVec 15) : Word := clearLow 2 (sext16 (imm ++ 0#1))

/-- The displacement of a `.l` floating-point access, from bits 15:2 of the immediate (R118, R119). -/
def dispFl (imm : BitVec 14) : Word := clearLow 2 (sext16 (imm ++ 0#2))

/-- The displacement of a `.d` floating-point access, from bits 15:3 of the immediate (R118, R119). -/
def dispFd (imm : BitVec 13) : Word := clearLow 3 (sext16 (imm ++ 0#3))

/-- The displacement of a `.q` floating-point access, from bits 15:3 of the immediate (R118, R119). -/
def dispFq (imm : BitVec 13) : Word := clearLow 4 (sext16 (imm ++ 0#3))

/-- The displacement of flush, from bits 15:1 of the immediate (R118, R174). -/
def dispFlush (imm : BitVec 15) : Word := clearLow 4 (sext16 (imm ++ 0#1))

/-- The effective address of a register+register form (R160). -/
def State.eaReg (s : State) (src1 src2 : Reg) : Word := s.x src1 + s.x src2

/-- The effective address of an immediate form (R160). -/
def State.eaImm (s : State) (off : Word) (src2 : Reg) : Word := off + s.x src2

/-- The auto-increment: `x[src2] <- EA` when the instruction asks for it (R161). -/
def State.autoInc (s : State) (inc : Bool) (src2 : Reg) (ea : Word) : State := if inc then s.setX src2 ea else s

/-- The target of a long branch at `b` (R116). -/
def longTarget (b : Word) (off : BitVec 26) : Word := b + 4#32 + (off.signExtend 32 <<< 2)

/-- The target of a short branch at `b` (R116). -/
def shortTarget (b : Word) (off : BitVec 16) : Word := b + 4#32 + (off.signExtend 32 <<< 2)

end Sys2Proof.Machine
end

