-- ==== Sys2Proof/Machine/Flags.lean ====
section
/-! DEFINITION. The flag computations: CC and OF of the integer instructions (spec/41_core_integer.md), LCC of bla
(spec/42_core_control.md R249), the status bits of the floating-point units (spec/45_fp_arith.md R341). -/

namespace Sys2Proof.Machine

/-- addu: the carry out of bit 31 (R203). -/
def carryAdd (a b : Word) : Bool := decide (2 ^ 32 ≤ a.toNat + b.toNat)

/-- subu: no borrow, b ≤ a unsigned (R204). -/
def noBorrow (a b : Word) : Bool := decide (b.toNat ≤ a.toNat)

/-- An unbounded integer is outside the signed 32-bit range (R205, R206). -/
def outsideSigned (t : Int) : Bool := decide (t < -2 ^ 31) || decide (2 ^ 31 ≤ t)

/-- adds: the true sum is negative (R205). -/
def addsCC (a b : Word) : Bool := decide (a.toInt + b.toInt < 0)
/-- adds: signed overflow (R205). -/
def addsOF (a b : Word) : Bool := outsideSigned (a.toInt + b.toInt)
/-- subs: b > a signed (R206). -/
def subsCC (a b : Word) : Bool := decide (a.toInt < b.toInt)
/-- subs: signed overflow (R206). -/
def subsOF (a b : Word) : Bool := outsideSigned (a.toInt - b.toInt)

/-- The logical operations: the result is zero (R212). -/
def logicCC (r : Word) : Bool := r == 0#32

/-- bla: the true sum of the increment and the counter is not negative (R249). -/
def blaLCC (a b : Word) : Bool := decide (0 ≤ a.toInt + b.toInt)

/-- The two floating-point units with status bits of their own (R341). -/
inductive FpUnit where
  | adder
  | multiplier
deriving DecidableEq, Repr

/-- The fsr bit of a unit's underflow: AU 13, MU 9 (R33). -/
def FpUnit.uBit : FpUnit → Nat
  | .adder => 13
  | .multiplier => 9
/-- The fsr bit of a unit's overflow: AO 14, MO 10 (R33). -/
def FpUnit.oBit : FpUnit → Nat
  | .adder => 14
  | .multiplier => 10
/-- The fsr bit of a unit's inexact: AI 15, MI 11 (R33). -/
def FpUnit.iBit : FpUnit → Nat
  | .adder => 15
  | .multiplier => 11

/-- fsr with a unit's O, U and I bits written (R341). -/
def setUnitBits (unit : FpUnit) (o u i : Bool) (fsr : Word) : Word :=
  setBit (setBit (setBit fsr unit.oBit o) unit.uBit u) unit.iBit i

/-- fsr with the sticky inexact bit set if there was an inexact result (R341). -/
def stickInexact (i : Bool) (fsr : Word) : Word := if i then setBit fsr 7 true else fsr

end Sys2Proof.Machine
end

