-- ==== Sys2Proof/Machine/Float.lean ====
section
/-! DEFINITION. IEEE 754 binary32 and binary64 arithmetic on exact values, the rounding of an exact result, and `FPCheck`
(spec/00_scope.md R14, spec/45_fp_arith.md R340, R341). -/

namespace Sys2Proof.Machine

/-- Significand bits, the leading one included. -/
def sigBits : Prec → Nat
  | .single => 24
  | .double => 53

/-- Exponent bits. -/
def expBits : Prec → Nat
  | .single => 8
  | .double => 11

/-- The exponent bias, which is also the largest exponent of a finite value. -/
def expBias : Prec → Nat
  | .single => 127
  | .double => 1023

/-- The exponent field of infinities and NaNs. -/
def expTop (p : Prec) : Nat := 2 ^ expBits p - 1

/-- The least exponent of a normal value. -/
def expMin (p : Prec) : Int := 1 - (expBias p : Int)

/-- A value: NaN, an infinity, or exactly (−1)^neg × m × 2^e. -/
inductive FVal where
  | nan
  | inf (neg : Bool)
  | fin (neg : Bool) (m : Nat) (e : Int)
deriving DecidableEq, Repr

/-- The sign bit of a pattern. -/
def signOf (p : Prec) (v : Dword) : Bool :=
  match p with
  | .single => v.getLsbD 31
  | .double => v.getLsbD 63

/-- The exponent field of a pattern. -/
def expField (p : Prec) (v : Dword) : Nat :=
  match p with
  | .single => (v.extractLsb' 23 8).toNat
  | .double => (v.extractLsb' 52 11).toNat

/-- The fraction field of a pattern. -/
def fracField (p : Prec) (v : Dword) : Nat :=
  match p with
  | .single => (v.extractLsb' 0 23).toNat
  | .double => (v.extractLsb' 0 52).toNat

/-- `F32(b)`, `F64(b)`: the value of a pattern (R14). -/
def fval (p : Prec) (v : Dword) : FVal :=
  if expField p v = expTop p then (if fracField p v = 0 then .inf (signOf p v) else .nan)
  else if expField p v = 0 then .fin (signOf p v) (fracField p v) (expMin p - (sigBits p - 1 : Nat))
  else .fin (signOf p v) (2 ^ (sigBits p - 1) + fracField p v) (expField p v - expBias p - (sigBits p - 1 : Nat))

/-- A source that FPCheck reports: a NaN, an infinity or a denormal (R341). -/
def sourceException (p : Prec) (v : Dword) : Bool :=
  expField p v == expTop p || (expField p v == 0 && fracField p v != 0)

/-- The pattern with a sign, an exponent field and a fraction field. -/
def packFields (p : Prec) (neg : Bool) (expo frac : Nat) : Dword :=
  BitVec.ofNat 64 ((if neg then 2 ^ (expBits p + sigBits p - 1) else 0) + expo * 2 ^ (sigBits p - 1) + frac)

/-- The pattern of a signed zero. -/
def zeroBits (p : Prec) (neg : Bool) : Dword := packFields p neg 0 0

/-- The pattern of a signed infinity. -/
def infBits (p : Prec) (neg : Bool) : Dword := packFields p neg (expTop p) 0

/-- The pattern of the finite value of greatest magnitude with a sign. -/
def maxBits (p : Prec) (neg : Bool) : Dword := packFields p neg (expTop p - 1) (2 ^ (sigBits p - 1) - 1)

/-- NAN_RESULT: some NaN, made from a free value; the exponent is all ones and the fraction is not zero (R341). -/
def nanBits (p : Prec) (free : Dword) : Dword :=
  packFields p (free.getLsbD 63) (expTop p) (if fracField p free = 0 then 1 else fracField p free)

/-- The result of an overflow under a rounding direction: the infinity, or the largest finite value when the direction is away
from that infinity (R341). -/
def overflowBits (p : Prec) (rm : RMode) (neg : Bool) : Dword :=
  match rm with
  | .nearest => infBits p neg
  | .down => if neg then infBits p neg else maxBits p neg
  | .up => if neg then maxBits p neg else infBits p neg
  | .zero => maxBits p neg

/-- Whether the magnitude is rounded up to the next multiple of 2^shift, where `low` is the part of it below 2^shift and
`odd` says that the multiple below is odd (R340). -/
def roundsUp (rm : RMode) (neg odd : Bool) (low shift : Nat) : Bool :=
  match rm with
  | .nearest => decide (2 ^ shift < 2 * low) || (decide (2 * low = 2 ^ shift) && odd)
  | .down => neg && low != 0
  | .up => !neg && low != 0
  | .zero => false

/-- A magnitude m × 2^e as a number of units of 2^q, rounded under a direction, and whether that was inexact (R340). -/
def roundUnits (rm : RMode) (neg : Bool) (m : Nat) (e q : Int) : Nat × Bool :=
  if q ≤ e then (m * 2 ^ (e - q).toNat, false)
  else
    let shift := (q - e).toNat
    let n := m / 2 ^ shift
    let low := m % 2 ^ shift
    (if roundsUp rm neg (n % 2 == 1) low shift then n + 1 else n, low != 0)

/-- A rounded result: its pattern and the three result conditions (R341). -/
structure Rounded where
  bits : Dword
  overflow : Bool
  tiny : Bool
  inexact : Bool
deriving DecidableEq, Repr

/-- The exponent of the unit in the last place of a nonzero m × 2^e rounded to a precision: below the normal range it is that of
the denormals. -/
def unitExp (p : Prec) (m : Nat) (e : Int) : Int :=
  (if (m.log2 : Int) + e < expMin p then expMin p else (m.log2 : Int) + e) - (sigBits p - 1 : Nat)

/-- The biased exponent field of n units of 2^q, n at most 2^sigBits: 0 for a denormal. -/
def fieldOfUnits (p : Prec) (n : Nat) (q : Int) : Nat :=
  if n < 2 ^ (sigBits p - 1) then 0
  else (q + (if n < 2 ^ sigBits p then 0 else 1) + (sigBits p - 1 : Nat) + expBias p).toNat

/-- `round_p` of (−1)^neg × m × 2^e (R14, R340), with overflow (the result rounded with an unbounded exponent exceeds the
largest finite value), tininess (nonzero and below the normal range before rounding) and inexactness (R341). -/
def roundFinite (p : Prec) (rm : RMode) (neg : Bool) (m : Nat) (e : Int) : Rounded :=
  if m = 0 then { bits := zeroBits p neg, overflow := false, tiny := false, inexact := false }
  else
    let q := unitExp p m e
    let n := (roundUnits rm neg m e q).1
    let inexact := (roundUnits rm neg m e q).2
    let expo := fieldOfUnits p n q
    let tiny := decide ((m.log2 : Int) + e < expMin p)
    if expTop p ≤ expo then { bits := overflowBits p rm neg, overflow := true, tiny := tiny, inexact := true }
    else { bits := packFields p neg expo (n % 2 ^ (sigBits p - 1)), overflow := false, tiny := tiny, inexact := inexact }

/-- The rounding of any exact result; a NaN is NAN_RESULT (R341). -/
def roundValue (p : Prec) (rm : RMode) (free : Dword) : FVal → Rounded
  | .nan => { bits := nanBits p free, overflow := false, tiny := false, inexact := false }
  | .inf neg => { bits := infBits p neg, overflow := false, tiny := false, inexact := false }
  | .fin neg m e => roundFinite p rm neg m e

/-! ### Exact operations -/

/-- A signed integer multiple of 2^e. -/
def signedUnits (neg : Bool) (m : Nat) : Int := if neg then -(m : Int) else m

/-- The units of m × 2^e at a smaller or equal exponent q. -/
def scaleTo (q : Int) (neg : Bool) (m : Nat) (e : Int) : Int := signedUnits neg (m * 2 ^ (e - q).toNat)

/-- The sign of an exact zero sum: that of both operands when they agree, else negative only toward −∞ (R343, IEEE 754). -/
def zeroSumSign (rm : RMode) (nega negb : Bool) : Bool := if nega == negb then nega else rm == .down

/-- `F(a) + F(b)`, exact (R343). -/
def exactAdd (rm : RMode) : FVal → FVal → FVal
  | .nan, _ => .nan
  | _, .nan => .nan
  | .inf a, .inf b => if a == b then .inf a else .nan
  | .inf a, .fin _ _ _ => .inf a
  | .fin _ _ _, .inf b => .inf b
  | .fin na ma ea, .fin nb mb eb =>
    let q := min ea eb
    let sum := scaleTo q na ma ea + scaleTo q nb mb eb
    if sum = 0 then .fin (zeroSumSign rm na nb) 0 0 else .fin (decide (sum < 0)) sum.natAbs q

/-- The value with the other sign. -/
def FVal.neg : FVal → FVal
  | .nan => .nan
  | .inf a => .inf (!a)
  | .fin a m e => .fin (!a) m e

/-- `F(a) − F(b)`, exact (R344). -/
def exactSub (rm : RMode) (a b : FVal) : FVal := exactAdd rm a b.neg

/-- `F(a) × F(b)`, exact (R345). -/
def exactMul : FVal → FVal → FVal
  | .nan, _ => .nan
  | _, .nan => .nan
  | .inf a, .inf b => .inf (a != b)
  | .inf a, .fin b m _ => if m = 0 then .nan else .inf (a != b)
  | .fin a m _, .inf b => if m = 0 then .nan else .inf (a != b)
  | .fin a ma ea, .fin b mb eb => .fin (a != b) (ma * mb) (ea + eb)

/-- `F(a) < F(b)`; false when unordered (R353). -/
def fLess : FVal → FVal → Bool
  | .nan, _ => false
  | _, .nan => false
  | .inf a, .inf b => a && !b
  | .inf a, .fin _ _ _ => a
  | .fin _ _ _, .inf b => !b
  | .fin na ma ea, .fin nb mb eb => decide (scaleTo (min ea eb) na ma ea < scaleTo (min ea eb) nb mb eb)

/-- `F(a) = F(b)`; false when unordered, and +0 = −0 (R355). -/
def fEqual : FVal → FVal → Bool
  | .nan, _ => false
  | _, .nan => false
  | .inf a, .inf b => a == b
  | .inf _, .fin _ _ _ => false
  | .fin _ _ _, .inf _ => false
  | .fin na ma ea, .fin nb mb eb => decide (scaleTo (min ea eb) na ma ea = scaleTo (min ea eb) nb mb eb)

/-- The value is a NaN. -/
def FVal.isNan : FVal → Bool
  | .nan => true
  | .inf _ => false
  | .fin _ _ _ => false

/-- The value is a zero of either sign (R348). -/
def FVal.isZero : FVal → Bool
  | .nan => false
  | .inf _ => false
  | .fin _ m _ => m == 0

/-- `F(b) < 0` (R349). -/
def FVal.isNegative : FVal → Bool
  | .nan => false
  | .inf neg => neg
  | .fin neg m _ => neg && m != 0

/-- The integer a finite value rounds to under a direction, and whether it is not that integer (R350). -/
def roundToInt (rm : RMode) (neg : Bool) (m : Nat) (e : Int) : Int × Bool :=
  (signedUnits neg (roundUnits rm neg m e 0).1, (roundUnits rm neg m e 0).2)

/-! ### FPCheck -/

/-- The result of FPCheck after flush-to-zero: with FZ a tiny result becomes a zero of its sign and is inexact (R341). -/
def flushed (p : Prec) (fz : Bool) (r : Rounded) : Rounded :=
  if r.tiny && fz then { r with bits := zeroBits p (signOf p r.bits), inexact := true } else r

/-- The free value a NaN result uses is used up (R341). -/
def State.afterNan (s : State) (x : FVal) : State := if x.isNan then s.nextFree else s

/-- The state with FPCheck's result conditions recorded in a unit's bits and in the sticky bit (R341). -/
def State.recordResult (s : State) (unit : FpUnit) (r : Rounded) : State :=
  { s with fsr := stickInexact r.inexact (setUnitBits unit r.overflow r.tiny r.inexact s.fsr) }

/-- A result condition that traps when FTE = 1 (R341). -/
def resultTraps (ti : Bool) (r : Rounded) : Bool := r.overflow || r.tiny || (r.inexact && ti)

/-- `FPCheck(unit, x, p, operands)`, where `se` says that some operand is a NaN, an infinity or a denormal (R341). Answers the
pattern of the result. -/
def fpCheck (unit : FpUnit) (x : FVal) (p : Prec) (se : Bool) (s : State) : Exec Dword :=
  if se then
    if (s.setSE true).fte then raise .ft .fpSource .nothing (s.setSE true)
    else
      .done (roundValue p s.rm s.free x).bits
        (State.afterNan { s.setSE true with fsr := setUnitBits unit false false false (s.setSE true).fsr } x)
  else
    let r := flushed p s.fz (roundValue p s.rm s.free x)
    let s1 := (s.setSE false).recordResult unit r
    if s.fte && resultTraps s.ti r then raise .ft .fpResult .nothing s1 else .done r.bits s1

end Sys2Proof.Machine
end

