-- ==== Sys2Proof/Machine/Pipeline.lean ====
section
/-! DEFINITION. The four pipelines: push, retire, issue (spec/44_fp_pipelines.md). -/

namespace Sys2Proof.Machine

/-- `Push(P, 3, e)` (R313). -/
def Pipe.push3 (p : Pipe) (e : Option Entry) : Pipe := { s1 := e, s2 := p.s1, s3 := p.s2 }

/-- `Push(M, 2, e)`: the entry left in the third stage is discarded (R313, R315). -/
def Pipe.push2 (p : Pipe) (e : Option Entry) : Pipe := { s1 := e, s2 := p.s1, s3 := none }

/-- The multiplier depth of an instruction that is not pfmul3.dd: 2 with double sources, 3 with single ones (R315). -/
inductive Depth where
  | two
  | three
deriving DecidableEq, Repr

/-- The multiplier depth a source precision selects (R315). -/
def depthOf : Prec → Depth
  | .single => .three
  | .double => .two

/-- `Push(P, d, e)`. -/
def Pipe.push (p : Pipe) (d : Depth) (e : Option Entry) : Pipe :=
  match d with
  | .two => p.push2 e
  | .three => p.push3 e

/-- The last stage in use (R312). -/
def Pipe.last (p : Pipe) (d : Depth) : Option Entry :=
  match d with
  | .two => p.s2
  | .three => p.s3

/-- A pipeline value of a precision: a single occupies bits 31:0 (R52). -/
def entryOf (p : Prec) (v : Dword) : Entry :=
  match p with
  | .single => { value := (v.extractLsb' 0 32).setWidth 64, prec := .single }
  | .double => { value := v, prec := .double }

/-- What retiring an empty stage leaves: a free value in f[fdest], and in f[fdest+1] when the issuing instruction's result precision
is double; f0 and f1 discard it (R312, R316). No alignment is asked of fdest (R172, R312). -/
def State.retireEmpty (s : State) (r : Prec) (fdest : Reg) : State :=
  if hardF fdest then s
  else
    match r with
    | .single => s.nextFree.setF fdest (s.free.extractLsb' 0 32)
    | .double => s.nextFree.setPair fdest (s.free.extractLsb' 0 32) (s.free.extractLsb' 32 32)

/-- `Retire`: the retiring entry is written to fdest at its own precision, a double entry that would go to an odd register being
refused (R27, R312); `r` is the issuing instruction's result precision, which an empty stage takes. -/
def retire (e : Option Entry) (r : Prec) (fdest : Reg) (s : State) : Exec Unit :=
  match e with
  | some entry =>
    if alignedFor entry.prec fdest then .done () (s.fw entry.prec fdest entry.value) else .refused .misalignedFpRegister
  | none => .done () (s.retireEmpty r fdest)

/-- `Issue(A, 3, fdest, e)`; `r` is the issuing instruction's result precision (R314). -/
def issueAdder (r : Prec) (fdest : Reg) (e : Option Entry) (s : State) : Exec Unit :=
  retire s.adder.s3 r fdest { s with adder := s.adder.push3 e }

/-- `Issue(M, d, fdest, e)` (R314, R315). -/
def issueMultiplier (d : Depth) (r : Prec) (fdest : Reg) (e : Option Entry) (s : State) : Exec Unit :=
  retire (s.multiplier.last d) r fdest { s with multiplier := s.multiplier.push d e }

/-- `Issue(L, 3, fdest, e)` (R314, R322). -/
def issueLoader (r : Prec) (fdest : Reg) (e : Option Entry) (s : State) : Exec Unit :=
  retire s.loader.s3 r fdest { s with loader := s.loader.push3 e }

/-- `Issue(G, 1, fdest, e)` (R314, R317). -/
def issueGraphics (r : Prec) (fdest : Reg) (e : Option Entry) (s : State) : Exec Unit :=
  retire s.graphics r fdest { s with graphics := e }

end Sys2Proof.Machine
end

