-- ==== Sys2Proof/Machine/LoadStore.lean ====
section
/-! DEFINITION. The loads, stores, the transfer ixfr and flush (spec/40_core_load_store.md). A `body` is the instruction's rule;
an `exec` is the rule and the end of the step. -/

namespace Sys2Proof.Machine

/-! ### Integer loads -/

/-- ld.b at an effective address (R163). -/
def loadByte (ea : Word) (dest : Reg) (s : State) : Exec Unit :=
  (dataRead .byte ea s).bind fun v s1 => .done () (s1.setX dest (sextByte v))

/-- ld.s at an effective address (R164). -/
def loadHalf (ea : Word) (dest : Reg) (s : State) : Exec Unit :=
  (dataRead .half ea s).bind fun v s1 => .done () (s1.setX dest (sextHalf v))

/-- ld.l at an effective address (R165). -/
def loadWord (ea : Word) (dest : Reg) (s : State) : Exec Unit :=
  (dataRead .word ea s).bind fun v s1 => .done () (s1.setX dest v)

def bodyLdbR (src1 src2 dest : Reg) (s : State) : Exec Unit := loadByte (s.eaReg src1 src2) dest s
def bodyLdbI (imm : BitVec 16) (src2 dest : Reg) (s : State) : Exec Unit := loadByte (s.eaImm (dispByte imm) src2) dest s
def bodyLdsR (src1 src2 dest : Reg) (s : State) : Exec Unit := loadHalf (s.eaReg src1 src2) dest s
def bodyLdsI (imm : BitVec 15) (src2 dest : Reg) (s : State) : Exec Unit := loadHalf (s.eaImm (dispHalf imm) src2) dest s
def bodyLdlR (src1 src2 dest : Reg) (s : State) : Exec Unit := loadWord (s.eaReg src1 src2) dest s
def bodyLdlI (imm : BitVec 15) (src2 dest : Reg) (s : State) : Exec Unit := loadWord (s.eaImm (dispWord imm) src2) dest s

/-! ### Integer stores (R166, R167, R168) -/

def bodyStb (src1 : Reg) (imm : BitVec 16) (src2 : Reg) (s : State) : Exec Unit :=
  dataWrite .byte (s.eaImm (dispByte imm) src2) (s.x src1) s
def bodySts (src1 : Reg) (imm : BitVec 15) (src2 : Reg) (s : State) : Exec Unit :=
  dataWrite .half (s.eaImm (dispHalf imm) src2) (s.x src1) s
def bodyStl (src1 : Reg) (imm : BitVec 15) (src2 : Reg) (s : State) : Exec Unit :=
  dataWrite .word (s.eaImm (dispWord imm) src2) (s.x src1) s

/-! ### Integer to floating-point transfer (R169) -/

def bodyIxfr (src1 fdest : Reg) (s : State) : Exec Unit := .done () (s.setF fdest (s.x src1))

/-! ### Floating-point loads (R170): the register write, then the auto-increment (R176) -/

/-- fld.l at an effective address. -/
def fldSingle (ea : Word) (src2 fdest : Reg) (inc : Bool) (s : State) : Exec Unit :=
  (dataRead .word ea s).bind fun v s1 => .done () ((s1.setF fdest v).autoInc inc src2 ea)

/-- fld.d at an effective address. -/
def fldDouble (ea : Word) (src2 fdest : Reg) (inc : Bool) (s : State) : Exec Unit :=
  if !alignedFor .double fdest then .refused .misalignedFpRegister
  else (dataRead64 ea s).bind fun v s1 => .done () ((s1.setFd fdest v).autoInc inc src2 ea)

/-- fld.q at an effective address. -/
def fldQuad (ea : Word) (src2 fdest : Reg) (inc : Bool) (s : State) : Exec Unit :=
  if !alignedQuad fdest then .refused .misalignedFpRegister
  else (dataRead128 ea s).bind fun v s1 =>
    .done () (((s1.setFd fdest v.1).setFd (fdest + 2#5) v.2).autoInc inc src2 ea)

def bodyFldlR (src1 src2 fdest : Reg) (inc : Bool) (s : State) : Exec Unit := fldSingle (s.eaReg src1 src2) src2 fdest inc s
def bodyFlddR (src1 src2 fdest : Reg) (inc : Bool) (s : State) : Exec Unit := fldDouble (s.eaReg src1 src2) src2 fdest inc s
def bodyFldqR (src1 src2 fdest : Reg) (inc : Bool) (s : State) : Exec Unit := fldQuad (s.eaReg src1 src2) src2 fdest inc s
def bodyFldlI (imm : BitVec 14) (src2 fdest : Reg) (inc : Bool) (s : State) : Exec Unit :=
  fldSingle (s.eaImm (dispFl imm) src2) src2 fdest inc s
def bodyFlddI (imm : BitVec 13) (src2 fdest : Reg) (inc : Bool) (s : State) : Exec Unit :=
  fldDouble (s.eaImm (dispFd imm) src2) src2 fdest inc s
def bodyFldqI (imm : BitVec 13) (src2 fdest : Reg) (inc : Bool) (s : State) : Exec Unit :=
  fldQuad (s.eaImm (dispFq imm) src2) src2 fdest inc s

/-! ### Floating-point stores (R171) -/

/-- fst.l at an effective address. -/
def fstSingle (ea : Word) (src2 fdest : Reg) (inc : Bool) (s : State) : Exec Unit :=
  (dataWrite .word ea (s.f fdest) s).bind fun _ s1 => .done () (s1.autoInc inc src2 ea)

/-- fst.d at an effective address. -/
def fstDouble (ea : Word) (src2 fdest : Reg) (inc : Bool) (s : State) : Exec Unit :=
  if !alignedFor .double fdest then .refused .misalignedFpRegister
  else (dataWrite64 ea (s.fd fdest) s).bind fun _ s1 => .done () (s1.autoInc inc src2 ea)

/-- fst.q at an effective address. -/
def fstQuad (ea : Word) (src2 fdest : Reg) (inc : Bool) (s : State) : Exec Unit :=
  if !alignedQuad fdest then .refused .misalignedFpRegister
  else (dataWrite128 ea (s.fd fdest) (s.fd (fdest + 2#5)) s).bind fun _ s1 => .done () (s1.autoInc inc src2 ea)

def bodyFstlR (src1 src2 fdest : Reg) (inc : Bool) (s : State) : Exec Unit := fstSingle (s.eaReg src1 src2) src2 fdest inc s
def bodyFstdR (src1 src2 fdest : Reg) (inc : Bool) (s : State) : Exec Unit := fstDouble (s.eaReg src1 src2) src2 fdest inc s
def bodyFstqR (src1 src2 fdest : Reg) (inc : Bool) (s : State) : Exec Unit := fstQuad (s.eaReg src1 src2) src2 fdest inc s
def bodyFstlI (imm : BitVec 14) (src2 fdest : Reg) (inc : Bool) (s : State) : Exec Unit :=
  fstSingle (s.eaImm (dispFl imm) src2) src2 fdest inc s
def bodyFstdI (imm : BitVec 13) (src2 fdest : Reg) (inc : Bool) (s : State) : Exec Unit :=
  fstDouble (s.eaImm (dispFd imm) src2) src2 fdest inc s
def bodyFstqI (imm : BitVec 13) (src2 fdest : Reg) (inc : Bool) (s : State) : Exec Unit :=
  fstQuad (s.eaImm (dispFq imm) src2) src2 fdest inc s

/-! ### Pipelined loads (R172): memory is read at issue (R98); the retiring value is written, then the auto-increment -/

/-- pfld.l at an effective address. -/
def pfldSingle (ea : Word) (src2 fdest : Reg) (inc : Bool) (s : State) : Exec Unit :=
  (dataRead .word ea s).bind fun v s1 =>
  (issueLoader .single fdest (some (entryOf .single (v.setWidth 64))) s1).bind fun _ s2 => .done () (s2.autoInc inc src2 ea)

/-- pfld.d at an effective address. -/
def pfldDouble (ea : Word) (src2 fdest : Reg) (inc : Bool) (s : State) : Exec Unit :=
  (dataRead64 ea s).bind fun v s1 =>
  (issueLoader .double fdest (some (entryOf .double v)) s1).bind fun _ s2 => .done () (s2.autoInc inc src2 ea)

def bodyPfldlR (src1 src2 fdest : Reg) (inc : Bool) (s : State) : Exec Unit := pfldSingle (s.eaReg src1 src2) src2 fdest inc s
def bodyPflddR (src1 src2 fdest : Reg) (inc : Bool) (s : State) : Exec Unit := pfldDouble (s.eaReg src1 src2) src2 fdest inc s
def bodyPfldlI (imm : BitVec 14) (src2 fdest : Reg) (inc : Bool) (s : State) : Exec Unit :=
  pfldSingle (s.eaImm (dispFl imm) src2) src2 fdest inc s
def bodyPflddI (imm : BitVec 13) (src2 fdest : Reg) (inc : Bool) (s : State) : Exec Unit :=
  pfldDouble (s.eaImm (dispFd imm) src2) src2 fdest inc s

/-! ### Pixel store (R173) -/

/-- The width of a pixel (R173); PS = 3 is reserved. -/
def pixelSize : BitVec 2 → Option BusSize
  | 0#2 => some .byte
  | 1#2 => some .half
  | 2#2 => some .word
  | _ => none

/-- The number of pixels in a 64-bit value (R173). -/
def pixelCount : BusSize → Nat
  | .byte => 8
  | .half => 4
  | .word => 2

/-- Pixel `i` of a value, in the low bits of a word (R173). -/
def pixelOf (n : BusSize) (v : Dword) (i : Nat) : Word := (v >>> (8 * n.bytes * i)).setWidth 32

/-- The place of pixel `i` in the eight bytes: i × w, or 8 − (i + 1) × w in big-endian order (R173). -/
def pixelOffset (n : BusSize) (big : Bool) (i : Nat) : Nat := if big then 8 - (i + 1) * n.bytes else i * n.bytes

/-- Store pixel `i` if its mask bit is 1 (R173). -/
def storePixel (n : BusSize) (pm : BitVec 8) (pa : Word) (v : Dword) (s : State) (i : Nat) : State :=
  if pm.getLsbD i then busWrite n s.be (pa + BitVec.ofNat 32 (pixelOffset n s.be i)) (pixelOf n v i) s else s

/-- The pixels of a value stored under a mask, in increasing pixel order (R173). With epsr.BE = 1 that is decreasing address order, where
R175 says increasing address order of every memory instruction: R173, the instruction's own rule, is followed (DEDUCED,
notes/assumptions/8.md). -/
def storePixels (n : BusSize) (pm : BitVec 8) (pa : Word) (v : Dword) (s : State) : State :=
  (List.range (pixelCount n)).foldl (storePixel n pm pa v) s

/-- pst.d: the eight bytes are checked and translated once, before any pixel is written and before PM changes (R173). -/
def bodyPstd (fdest : Reg) (imm : BitVec 13) (src2 : Reg) (inc : Bool) (s : State) : Exec Unit :=
  if !alignedFor .double fdest then .refused .misalignedFpRegister
  else
    match pixelSize s.ps with
    | none => .refused .pixelSize3
    | some n =>
      (dataAddress 3 .write (s.eaImm (dispFd imm) src2) s).bind fun pa s1 =>
      .done () (((storePixels n s.pm pa (s.fd fdest) s1).setPM (s.pm >>> pixelCount n)).autoInc inc src2
        (s.eaImm (dispFd imm) src2))

/-! ### Cache flush -/

/-- flush: no bus access; the auto-increment, then `if dest ≠ 0: x[dest] <- undef`, a free value (R174). R174's pseudocode decodes the dest
field, so the field is not one that R130 executes as zero (DEDUCED, notes/assumptions/19.md). -/
def bodyFlush (imm : BitVec 15) (src2 dest : Reg) (inc : Bool) (s : State) : Exec Unit :=
  let s1 := s.autoInc inc src2 (s.eaImm (dispFlush imm) src2)
  if dest = 0#5 then .done () s1 else .done () (s1.nextFree.setX dest (s1.free.extractLsb' 0 32))

/-! ### The meanings -/

def execLdbR (src1 src2 dest : Reg) (s : State) : StepOutcome := finish s.pc (bodyLdbR src1 src2 dest s)
def execLdbI (imm : BitVec 16) (src2 dest : Reg) (s : State) : StepOutcome := finish s.pc (bodyLdbI imm src2 dest s)
def execIxfr (src1 fdest : Reg) (s : State) : StepOutcome := finish s.pc (bodyIxfr src1 fdest s)
def execStb (src1 : Reg) (imm : BitVec 16) (src2 : Reg) (s : State) : StepOutcome := finish s.pc (bodyStb src1 imm src2 s)
def execLdsR (src1 src2 dest : Reg) (s : State) : StepOutcome := finish s.pc (bodyLdsR src1 src2 dest s)
def execLdlR (src1 src2 dest : Reg) (s : State) : StepOutcome := finish s.pc (bodyLdlR src1 src2 dest s)
def execLdsI (imm : BitVec 15) (src2 dest : Reg) (s : State) : StepOutcome := finish s.pc (bodyLdsI imm src2 dest s)
def execLdlI (imm : BitVec 15) (src2 dest : Reg) (s : State) : StepOutcome := finish s.pc (bodyLdlI imm src2 dest s)
def execSts (src1 : Reg) (imm : BitVec 15) (src2 : Reg) (s : State) : StepOutcome := finish s.pc (bodySts src1 imm src2 s)
def execStl (src1 : Reg) (imm : BitVec 15) (src2 : Reg) (s : State) : StepOutcome := finish s.pc (bodyStl src1 imm src2 s)
def execFlddR (src1 src2 fdest : Reg) (inc : Bool) (s : State) : StepOutcome := finish s.pc (bodyFlddR src1 src2 fdest inc s)
def execFldlR (src1 src2 fdest : Reg) (inc : Bool) (s : State) : StepOutcome := finish s.pc (bodyFldlR src1 src2 fdest inc s)
def execFldqR (src1 src2 fdest : Reg) (inc : Bool) (s : State) : StepOutcome := finish s.pc (bodyFldqR src1 src2 fdest inc s)
def execFlddI (imm : BitVec 13) (src2 fdest : Reg) (inc : Bool) (s : State) : StepOutcome :=
  finish s.pc (bodyFlddI imm src2 fdest inc s)
def execFldlI (imm : BitVec 14) (src2 fdest : Reg) (inc : Bool) (s : State) : StepOutcome :=
  finish s.pc (bodyFldlI imm src2 fdest inc s)
def execFldqI (imm : BitVec 13) (src2 fdest : Reg) (inc : Bool) (s : State) : StepOutcome :=
  finish s.pc (bodyFldqI imm src2 fdest inc s)
def execFstdR (src1 src2 fdest : Reg) (inc : Bool) (s : State) : StepOutcome := finish s.pc (bodyFstdR src1 src2 fdest inc s)
def execFstlR (src1 src2 fdest : Reg) (inc : Bool) (s : State) : StepOutcome := finish s.pc (bodyFstlR src1 src2 fdest inc s)
def execFstqR (src1 src2 fdest : Reg) (inc : Bool) (s : State) : StepOutcome := finish s.pc (bodyFstqR src1 src2 fdest inc s)
def execFstdI (imm : BitVec 13) (src2 fdest : Reg) (inc : Bool) (s : State) : StepOutcome :=
  finish s.pc (bodyFstdI imm src2 fdest inc s)
def execFstlI (imm : BitVec 14) (src2 fdest : Reg) (inc : Bool) (s : State) : StepOutcome :=
  finish s.pc (bodyFstlI imm src2 fdest inc s)
def execFstqI (imm : BitVec 13) (src2 fdest : Reg) (inc : Bool) (s : State) : StepOutcome :=
  finish s.pc (bodyFstqI imm src2 fdest inc s)
def execPflddR (src1 src2 fdest : Reg) (inc : Bool) (s : State) : StepOutcome := finish s.pc (bodyPflddR src1 src2 fdest inc s)
def execPfldlR (src1 src2 fdest : Reg) (inc : Bool) (s : State) : StepOutcome := finish s.pc (bodyPfldlR src1 src2 fdest inc s)
def execPflddI (imm : BitVec 13) (src2 fdest : Reg) (inc : Bool) (s : State) : StepOutcome :=
  finish s.pc (bodyPflddI imm src2 fdest inc s)
def execPfldlI (imm : BitVec 14) (src2 fdest : Reg) (inc : Bool) (s : State) : StepOutcome :=
  finish s.pc (bodyPfldlI imm src2 fdest inc s)
def execPstd (fdest : Reg) (imm : BitVec 13) (src2 : Reg) (inc : Bool) (s : State) : StepOutcome :=
  finish s.pc (bodyPstd fdest imm src2 inc s)
def execFlush (imm : BitVec 15) (src2 dest : Reg) (inc : Bool) (s : State) : StepOutcome :=
  finish s.pc (bodyFlush imm src2 dest inc s)

end Sys2Proof.Machine
end

