-- ==== Sys2Proof/Machine/Integer.lean ====
section
/-! DEFINITION. The integer add, subtract, shift and logical instructions (spec/41_core_integer.md). `a` is the first operand, the
register isrc1 or the immediate; `b` is isrc2 (R200). Sources are read before the destination is written (R202). -/

namespace Sys2Proof.Machine

/-! ### Shared operations -/

/-- addu (R203). -/
def addUnsigned (a b : Word) (dest : Reg) (s : State) : Exec Unit :=
  .done () (((s.setX dest (a + b)).setCC (carryAdd a b)).setOF (carryAdd a b))

/-- subu (R204). -/
def subUnsigned (a b : Word) (dest : Reg) (s : State) : Exec Unit :=
  .done () (((s.setX dest (a - b)).setCC (noBorrow a b)).setOF (!noBorrow a b))

/-- adds (R205). -/
def addSigned (a b : Word) (dest : Reg) (s : State) : Exec Unit :=
  .done () (((s.setX dest (a + b)).setCC (addsCC a b)).setOF (addsOF a b))

/-- subs (R206). -/
def subSigned (a b : Word) (dest : Reg) (s : State) : Exec Unit :=
  .done () (((s.setX dest (a - b)).setCC (subsCC a b)).setOF (subsOF a b))

/-- The result of a shift is written: the shifted value for a count of 0 to 31, a free value for a larger count (R207). -/
def writeShift (count shifted : Word) (dest : Reg) (s : State) : State :=
  if count.toNat < 32 then s.setX dest shifted else s.nextFree.setX dest (s.free.extractLsb' 0 32)

/-- shl (R208). -/
def shiftLeft (a b : Word) (dest : Reg) (s : State) : Exec Unit := .done () (writeShift a (b <<< a.toNat) dest s)

/-- shr: psr.SC takes the low five bits of the count (R209). -/
def shiftRight (a b : Word) (dest : Reg) (s : State) : Exec Unit :=
  .done () (writeShift a (b >>> a.toNat) dest (s.setSC (a.extractLsb' 0 5)))

/-- shra (R210). -/
def shiftRightArith (a b : Word) (dest : Reg) (s : State) : Exec Unit :=
  .done () (writeShift a (b.sshiftRight a.toNat) dest s)

/-- shrd: the low word of the 64-bit concatenation shifted right by psr.SC (R211). -/
def shiftRightDouble (high low : Word) (n : BitVec 5) : Word := ((high ++ low) >>> n.toNat).extractLsb' 0 32

/-- A logical operation with result `r`: CC says that the result is zero (R212). -/
def logical (r : Word) (dest : Reg) (s : State) : Exec Unit := .done () ((s.setX dest r).setCC (logicCC r))

/-! ### The rules -/

def bodyAdduR (src1 src2 dest : Reg) (s : State) : Exec Unit := addUnsigned (s.x src1) (s.x src2) dest s
def bodyAdduI (imm : BitVec 16) (src2 dest : Reg) (s : State) : Exec Unit := addUnsigned (sext16 imm) (s.x src2) dest s
def bodySubuR (src1 src2 dest : Reg) (s : State) : Exec Unit := subUnsigned (s.x src1) (s.x src2) dest s
def bodySubuI (imm : BitVec 16) (src2 dest : Reg) (s : State) : Exec Unit := subUnsigned (sext16 imm) (s.x src2) dest s
def bodyAddsR (src1 src2 dest : Reg) (s : State) : Exec Unit := addSigned (s.x src1) (s.x src2) dest s
def bodyAddsI (imm : BitVec 16) (src2 dest : Reg) (s : State) : Exec Unit := addSigned (sext16 imm) (s.x src2) dest s
def bodySubsR (src1 src2 dest : Reg) (s : State) : Exec Unit := subSigned (s.x src1) (s.x src2) dest s
def bodySubsI (imm : BitVec 16) (src2 dest : Reg) (s : State) : Exec Unit := subSigned (sext16 imm) (s.x src2) dest s
def bodyShlR (src1 src2 dest : Reg) (s : State) : Exec Unit := shiftLeft (s.x src1) (s.x src2) dest s
def bodyShlI (imm : BitVec 16) (src2 dest : Reg) (s : State) : Exec Unit := shiftLeft (zext16 imm) (s.x src2) dest s
def bodyShrR (src1 src2 dest : Reg) (s : State) : Exec Unit := shiftRight (s.x src1) (s.x src2) dest s
def bodyShrI (imm : BitVec 16) (src2 dest : Reg) (s : State) : Exec Unit := shiftRight (zext16 imm) (s.x src2) dest s
def bodyShraR (src1 src2 dest : Reg) (s : State) : Exec Unit := shiftRightArith (s.x src1) (s.x src2) dest s
def bodyShraI (imm : BitVec 16) (src2 dest : Reg) (s : State) : Exec Unit := shiftRightArith (zext16 imm) (s.x src2) dest s
def bodyShrd (src1 src2 dest : Reg) (s : State) : Exec Unit :=
  .done () (s.setX dest (shiftRightDouble (s.x src1) (s.x src2) s.sc))
def bodyAndR (src1 src2 dest : Reg) (s : State) : Exec Unit := logical ((s.x src1) &&& (s.x src2)) dest s
def bodyAndI (imm : BitVec 16) (src2 dest : Reg) (s : State) : Exec Unit := logical ((zext16 imm) &&& (s.x src2)) dest s
def bodyAndnotR (src1 src2 dest : Reg) (s : State) : Exec Unit := logical (~~~(s.x src1) &&& (s.x src2)) dest s
def bodyAndnotI (imm : BitVec 16) (src2 dest : Reg) (s : State) : Exec Unit := logical (~~~(zext16 imm) &&& (s.x src2)) dest s
def bodyOrR (src1 src2 dest : Reg) (s : State) : Exec Unit := logical ((s.x src1) ||| (s.x src2)) dest s
def bodyOrI (imm : BitVec 16) (src2 dest : Reg) (s : State) : Exec Unit := logical ((zext16 imm) ||| (s.x src2)) dest s
def bodyXorR (src1 src2 dest : Reg) (s : State) : Exec Unit := logical ((s.x src1) ^^^ (s.x src2)) dest s
def bodyXorI (imm : BitVec 16) (src2 dest : Reg) (s : State) : Exec Unit := logical ((zext16 imm) ^^^ (s.x src2)) dest s
def bodyAndh (imm : BitVec 16) (src2 dest : Reg) (s : State) : Exec Unit := logical ((high16 imm) &&& (s.x src2)) dest s
def bodyAndnoth (imm : BitVec 16) (src2 dest : Reg) (s : State) : Exec Unit := logical (~~~(high16 imm) &&& (s.x src2)) dest s
def bodyOrh (imm : BitVec 16) (src2 dest : Reg) (s : State) : Exec Unit := logical ((high16 imm) ||| (s.x src2)) dest s
def bodyXorh (imm : BitVec 16) (src2 dest : Reg) (s : State) : Exec Unit := logical ((high16 imm) ^^^ (s.x src2)) dest s

/-! ### The meanings -/

def execAdduR (src1 src2 dest : Reg) (s : State) : StepOutcome := finish s.pc (bodyAdduR src1 src2 dest s)
def execAdduI (imm : BitVec 16) (src2 dest : Reg) (s : State) : StepOutcome := finish s.pc (bodyAdduI imm src2 dest s)
def execSubuR (src1 src2 dest : Reg) (s : State) : StepOutcome := finish s.pc (bodySubuR src1 src2 dest s)
def execSubuI (imm : BitVec 16) (src2 dest : Reg) (s : State) : StepOutcome := finish s.pc (bodySubuI imm src2 dest s)
def execAddsR (src1 src2 dest : Reg) (s : State) : StepOutcome := finish s.pc (bodyAddsR src1 src2 dest s)
def execAddsI (imm : BitVec 16) (src2 dest : Reg) (s : State) : StepOutcome := finish s.pc (bodyAddsI imm src2 dest s)
def execSubsR (src1 src2 dest : Reg) (s : State) : StepOutcome := finish s.pc (bodySubsR src1 src2 dest s)
def execSubsI (imm : BitVec 16) (src2 dest : Reg) (s : State) : StepOutcome := finish s.pc (bodySubsI imm src2 dest s)
def execShlR (src1 src2 dest : Reg) (s : State) : StepOutcome := finish s.pc (bodyShlR src1 src2 dest s)
def execShlI (imm : BitVec 16) (src2 dest : Reg) (s : State) : StepOutcome := finish s.pc (bodyShlI imm src2 dest s)
def execShrR (src1 src2 dest : Reg) (s : State) : StepOutcome := finish s.pc (bodyShrR src1 src2 dest s)
def execShrI (imm : BitVec 16) (src2 dest : Reg) (s : State) : StepOutcome := finish s.pc (bodyShrI imm src2 dest s)
def execShraR (src1 src2 dest : Reg) (s : State) : StepOutcome := finish s.pc (bodyShraR src1 src2 dest s)
def execShraI (imm : BitVec 16) (src2 dest : Reg) (s : State) : StepOutcome := finish s.pc (bodyShraI imm src2 dest s)
def execShrd (src1 src2 dest : Reg) (s : State) : StepOutcome := finish s.pc (bodyShrd src1 src2 dest s)
def execAndR (src1 src2 dest : Reg) (s : State) : StepOutcome := finish s.pc (bodyAndR src1 src2 dest s)
def execAndI (imm : BitVec 16) (src2 dest : Reg) (s : State) : StepOutcome := finish s.pc (bodyAndI imm src2 dest s)
def execAndnotR (src1 src2 dest : Reg) (s : State) : StepOutcome := finish s.pc (bodyAndnotR src1 src2 dest s)
def execAndnotI (imm : BitVec 16) (src2 dest : Reg) (s : State) : StepOutcome := finish s.pc (bodyAndnotI imm src2 dest s)
def execOrR (src1 src2 dest : Reg) (s : State) : StepOutcome := finish s.pc (bodyOrR src1 src2 dest s)
def execOrI (imm : BitVec 16) (src2 dest : Reg) (s : State) : StepOutcome := finish s.pc (bodyOrI imm src2 dest s)
def execXorR (src1 src2 dest : Reg) (s : State) : StepOutcome := finish s.pc (bodyXorR src1 src2 dest s)
def execXorI (imm : BitVec 16) (src2 dest : Reg) (s : State) : StepOutcome := finish s.pc (bodyXorI imm src2 dest s)
def execAndh (imm : BitVec 16) (src2 dest : Reg) (s : State) : StepOutcome := finish s.pc (bodyAndh imm src2 dest s)
def execAndnoth (imm : BitVec 16) (src2 dest : Reg) (s : State) : StepOutcome := finish s.pc (bodyAndnoth imm src2 dest s)
def execOrh (imm : BitVec 16) (src2 dest : Reg) (s : State) : StepOutcome := finish s.pc (bodyOrh imm src2 dest s)
def execXorh (imm : BitVec 16) (src2 dest : Reg) (s : State) : StepOutcome := finish s.pc (bodyXorh imm src2 dest s)

end Sys2Proof.Machine
end

