-- ==== Sys2Proof/Machine/System.lean ====
section
/-! DEFINITION. Control-register access, trap, the overflow trap and the bus lock (spec/43_core_system.md). -/

namespace Sys2Proof.Machine

/-- A control register that csrc2 names, and what ld.c reads in it; fir is read by its own rule (R29, R280). -/
def State.readControl (s : State) (csrc2 : Reg) : Option Word :=
  match csrc2 with
  | 0#5 => some s.firValue
  | 1#5 => some s.readPsr
  | 2#5 => some s.readDirbase
  | 3#5 => some s.db
  | 4#5 => some s.readFsr
  | 5#5 => some s.readEpsr
  | _ => none

/-- The state after the read itself: reading fir clears `fir_trap` (R281). -/
def State.afterReadControl (s : State) (csrc2 : Reg) : State := if csrc2 = 0#5 then s.afterReadFir else s

/-- The fields of psr st.c writes in the current mode (R285). -/
def State.psrWriteMask (s : State) : Word := if s.user then psrUserMask else psrSupervisorMask

/-- st.c to the control register csrc2, in the current mode; a field the mode may not write keeps its value (R282, R285). -/
def State.writeControl (s : State) (csrc2 : Reg) (v : Word) : Option State :=
  match csrc2 with
  | 0#5 => some s
  | 1#5 => some { s with psr := maskedWrite s.psrWriteMask s.psr v }
  | 2#5 => some (if s.user then s else { s with dirbase := maskedWrite dirbaseMask s.dirbase v })
  | 3#5 => some (if s.user then s else { s with db := v })
  | 4#5 => some { s with fsr := maskedWrite fsrMask s.fsr v }
  | 5#5 => some (if s.user then s else { s with epsr := maskedWrite epsrMask s.epsr v })
  | _ => none

/-- ld.c (R280); csrc2 above 5 is an undefined opcode (R283), recorded with the fetched word (R431). -/
def bodyLdc (csrc2 dest : Reg) (s : State) : Exec Unit :=
  match s.readControl csrc2 with
  | some v => .done () ((s.afterReadControl csrc2).setX dest v)
  | none => raise .it .undefinedOpcode (.word s.fetched) s

/-- st.c (R282); csrc2 above 5 is an undefined opcode (R283). A write of dirbase.ITI changes no state (R284). -/
def bodyStc (src1 csrc2 : Reg) (s : State) : Exec Unit :=
  match s.writeControl csrc2 (s.x src1) with
  | some t => .done () t
  | none => raise .it .undefinedOpcode (.word s.fetched) s

/-- trap: the fields are not decoded further; the record takes the fetched word (R288, R431). -/
def bodyTrap (_src1 _src2 _dest : Reg) (s : State) : Exec Unit := raise .it .trapInstruction (.word s.fetched) s

/-- intovr (R289). -/
def bodyIntovr (s : State) : Exec Unit := if s.ovf then raise .it .integerOverflow .nothing s else .done () s

/-- lock (R286). -/
def bodyLock (s : State) : Exec Unit := .done () (s.setBL true)

/-- unlock (R287). -/
def bodyUnlock (s : State) : Exec Unit := .done () (s.setBL false)

def execLdc (csrc2 dest : Reg) (s : State) : StepOutcome := finish s.pc (bodyLdc csrc2 dest s)
def execStc (src1 csrc2 : Reg) (s : State) : StepOutcome := finish s.pc (bodyStc src1 csrc2 s)
def execTrap (src1 src2 dest : Reg) (s : State) : StepOutcome := finish s.pc (bodyTrap src1 src2 dest s)
def execIntovr (s : State) : StepOutcome := finish s.pc (bodyIntovr s)
def execLock (s : State) : StepOutcome := finish s.pc (bodyLock s)
def execUnlock (s : State) : StepOutcome := finish s.pc (bodyUnlock s)

end Sys2Proof.Machine
end

