-- ==== Sys2Proof/Machine/FpArith.lean ====
section
/-! DEFINITION. Floating-point arithmetic, conversion, compare and transfer (spec/45_fp_arith.md). Every body is an FP-escape
instruction's: `fpEscape` applies psr.KNF and the D bit. A form the instruction does not accept is refused (R129). -/

namespace Sys2Proof.Machine

/-! ### Accepted forms, and where a result goes -/

/-- A register is aligned for a precision, or the form is refused (R27). -/
def requireAligned (ok : Bool) (k : State → Exec Unit) (s : State) : Exec Unit :=
  if ok then k s else .refused .misalignedFpRegister

/-- A precision pair is accepted, or the form is refused (R129). -/
def requirePair (ok : Bool) (k : State → Exec Unit) (s : State) : Exec Unit :=
  if ok then k s else .refused .precisionPair

/-- The scalar form writes its result directly (R342). -/
def writeScalar (r : Prec) (dest : Reg) (v : Dword) (s : State) : Exec Unit := .done () (s.fw r dest v)

/-- The pipelined form of an adder instruction issues its result (R342). -/
def pushAdder (r : Prec) (dest : Reg) (v : Dword) (s : State) : Exec Unit := issueAdder r dest (some (entryOf r v)) s

/-- The pipelined form of a multiplier instruction issues its result (R342, R345). -/
def pushMultiplier (d : Depth) (r : Prec) (dest : Reg) (v : Dword) (s : State) : Exec Unit :=
  issueMultiplier d r dest (some (entryOf r v)) s

/-! ### Arithmetic of two operands (R343 to R346) -/

/-- An exact operation of two values under a rounding direction. -/
abbrev ExactOp := RMode → FVal → FVal → FVal

/-- Read both operands at S, check and round at R, and give the result to `k` (R341, R343). -/
def arith (unit : FpUnit) (op : ExactOp) (src1 src2 : Reg) (sp rp : Prec) (k : Dword → State → Exec Unit) (s : State) :
    Exec Unit :=
  (fpCheck unit (op s.rm (fval sp (s.fr sp src1)) (fval sp (s.fr sp src2))) rp
    (sourceException sp (s.fr sp src1) || sourceException sp (s.fr sp src2)) s).bind k

/-- A scalar arithmetic instruction. -/
def scalarArith (unit : FpUnit) (op : ExactOp) (o : Fp3) : State → Exec Unit :=
  fpEscape o.d <| requirePair (pairArith o.s o.r) <|
    requireAligned (alignedFor o.s o.src1 && alignedFor o.s o.src2 && alignedFor o.r o.dest) <|
      arith unit op o.src1 o.src2 o.s o.r (writeScalar o.r o.dest)

/-- A pipelined arithmetic instruction; `push` is the issue into its pipeline. -/
def pipedArith (unit : FpUnit) (op : ExactOp) (push : Prec → Reg → Dword → State → Exec Unit) (o : Fp3) :
    State → Exec Unit :=
  fpEscape o.d <| requirePair (pairArith o.s o.r) <|
    requireAligned (alignedFor o.s o.src1 && alignedFor o.s o.src2) <|
      arith unit op o.src1 o.src2 o.s o.r (push o.r o.dest)

/-- The product does not depend on the rounding direction. -/
def mulOp : ExactOp := fun _ a b => exactMul a b

def bodyFadd (o : Fp3) (s : State) : Exec Unit := scalarArith .adder exactAdd o s
def bodyPfadd (o : Fp3) (s : State) : Exec Unit := pipedArith .adder exactAdd pushAdder o s
def bodyFsub (o : Fp3) (s : State) : Exec Unit := scalarArith .adder exactSub o s
def bodyPfsub (o : Fp3) (s : State) : Exec Unit := pipedArith .adder exactSub pushAdder o s
def bodyFmul (o : Fp3) (s : State) : Exec Unit := scalarArith .multiplier mulOp o s
def bodyPfmul (o : Fp3) (s : State) : Exec Unit := pipedArith .multiplier mulOp (pushMultiplier (depthOf o.s)) o s

/-- pfmul3.dd: always three stages (R346). -/
def bodyPfmul3 (o : FpDd) (s : State) : Exec Unit :=
  fpEscape o.d (requireAligned (alignedFor .double o.src1 && alignedFor .double o.src2) <|
    arith .multiplier mulOp o.src1 o.src2 .double .double (pushMultiplier .three .double o.dest)) s

/-! ### fmlow.dd (R347) -/

/-- The exact product of the low 53 bits of two patterns, modulo 2^53. -/
def lowProduct (a b : Dword) : BitVec 53 :=
  BitVec.ofNat 53 ((a.extractLsb' 0 53).toNat * (b.extractLsb' 0 53).toNat)

/-- Bits 31:0 of the result: those of the product. -/
def mulLowWord (a b : Dword) : Word := (lowProduct a b).extractLsb' 0 32

/-- Bits 63:32 of the result: the exclusive or of the signs, ten free bits, bits 52:32 of the product. -/
def mulHighWord (a b free : Dword) : Word :=
  BitVec.ofBool (a.getLsbD 63 != b.getLsbD 63) ++ free.extractLsb' 53 10 ++ (lowProduct a b).extractLsb' 32 21

def bodyFmlow (o : FpDd) (s : State) : Exec Unit :=
  fpEscape o.d (requireAligned (alignedFor .double o.src1 && alignedFor .double o.src2 && alignedFor .double o.dest) <|
    fun s => .done () (s.nextFree.setPair o.dest (mulLowWord (s.fd o.src1) (s.fd o.src2))
      (mulHighWord (s.fd o.src1) (s.fd o.src2) s.free))) s

/-! ### Reciprocals (R348, R349) -/

/-- An approximation: a source outside its domain sets SE, traps with FTE, else leaves a free value; any other source clears SE and
gives the parameter function's value. R348 says so of SE for frcp; that it holds for frsqr too, of which R349 says only that SE is a flag of
it, is DEDUCED, notes/assumptions/10.md. -/
def approximate (outside : FVal → Bool) (fn : Dword → Prec → Prec → Dword) (o : Fp2) (s : State) : Exec Unit :=
  if outside (fval o.s (s.fr o.s o.src)) then
    if s.fte then raise .ft .fpSource .nothing (s.setSE true)
    else .done () ((s.setSE true).nextFree.fw o.r o.dest s.free)
  else .done () ((s.setSE false).fw o.r o.dest (fn (s.fr o.s o.src) o.s o.r))

/-- A scalar approximation instruction. -/
def scalarApproximate (outside : FVal → Bool) (fn : Dword → Prec → Prec → Dword) (o : Fp2) : State → Exec Unit :=
  fpEscape o.d <| requirePair (pairArith o.s o.r) <|
    requireAligned (alignedFor o.s o.src && alignedFor o.r o.dest) <| approximate outside fn o

def bodyFrcp (o : Fp2) (s : State) : Exec Unit := scalarApproximate FVal.isZero Config.frcpFn o s
def bodyFrsqr (o : Fp2) (s : State) : Exec Unit :=
  scalarApproximate (fun v => v.isZero || v.isNegative) Config.frsqrFn o s

/-! ### Conversions to integer (R350, R351) -/

/-- What a conversion does with a value: the integer when the source is in range, and whether the value is not that integer; for a NaN or
an infinity there is no such integer and the inexact bit is free. -/
structure Conversion where
  int : Option Int
  inexact : Bool
deriving DecidableEq, Repr

/-- Round to an integer under a direction and check the range −2^31 to 2^31 − 1 (R350). -/
def convert (rm : RMode) (freeBit : Bool) : FVal → Conversion
  | .nan => { int := none, inexact := freeBit }
  | .inf _ => { int := none, inexact := freeBit }
  | .fin neg m e =>
    { int := if outsideSigned (roundToInt rm neg m e).1 then none else some (roundToInt rm neg m e).1,
      inexact := (roundToInt rm neg m e).2 }

/-- Bits 31:0 of the result of a conversion: the integer, or a free word (R350). -/
def conversionLow (free : Dword) : Option Int → Word
  | some n => BitVec.ofInt 32 n
  | none => free.extractLsb' 0 32

/-- Bits 63:32 of the result of a conversion: free (R350). -/
def conversionHigh (free : Dword) : Word := free.extractLsb' 32 32

/-- fsr after a conversion: SE for a source with no integer in range, AI, and the sticky bit (R350, R341). -/
def conversionFsr (c : Conversion) (fsr : Word) : Word :=
  stickInexact c.inexact (setBit (setBit fsr 8 c.int.isNone) 15 c.inexact)

/-- fix and ftrunc (R350, R351): the two words of the result are given to `k`, the low one first. The free bit of AI is bit 0 of
a free value of its own. -/
def convertTo (rm : RMode) (o : Fp2) (k : Word → Word → State → Exec Unit) (s : State) : Exec Unit :=
  let c := convert rm (s.nextFree.free.getLsbD 0) (fval o.s (s.fr o.s o.src))
  if c.int.isNone && s.fte then raise .ft .fpSource .nothing (s.setSE true)
  else
    let s1 := { s.nextFree.nextFree with fsr := conversionFsr c s.fsr }
    if s.fte && c.inexact && s.ti then raise .ft .fpResult .nothing s1
    else k (conversionLow s.free c.int) (conversionHigh s.free) s1

/-- The scalar form of a conversion writes the pair of its destination. -/
def writePair (dest : Reg) (low high : Word) (s : State) : Exec Unit := .done () (s.setPair dest low high)

/-- The pipelined form of a conversion issues the 64-bit result. -/
def pushPair (dest : Reg) (low high : Word) (s : State) : Exec Unit := pushAdder .double dest (high ++ low) s

/-- A scalar conversion instruction; the rounding direction is given the state. -/
def scalarConvert (rm : State → RMode) (o : Fp2) : State → Exec Unit :=
  fpEscape o.d <| requirePair (pairFix o.s o.r) <|
    requireAligned (alignedFor o.s o.src && alignedFor .double o.dest) <| fun s => convertTo (rm s) o (writePair o.dest) s

/-- A pipelined conversion instruction. -/
def pipedConvert (rm : State → RMode) (o : Fp2) : State → Exec Unit :=
  fpEscape o.d <| requirePair (pairFix o.s o.r) <|
    requireAligned (alignedFor o.s o.src) <| fun s => convertTo (rm s) o (pushPair o.dest) s

def bodyFix (o : Fp2) (s : State) : Exec Unit := scalarConvert State.rm o s
def bodyPfix (o : Fp2) (s : State) : Exec Unit := pipedConvert State.rm o s
def bodyFtrunc (o : Fp2) (s : State) : Exec Unit := scalarConvert (fun _ => .zero) o s
def bodyPftrunc (o : Fp2) (s : State) : Exec Unit := pipedConvert (fun _ => .zero) o s

/-! ### famov (R352) -/

/-- Check and round the source at the result precision, and give the result to `k`. -/
def move (o : Fp2) (k : Dword → State → Exec Unit) (s : State) : Exec Unit :=
  (fpCheck .adder (fval o.s (s.fr o.s o.src)) o.r (sourceException o.s (s.fr o.s o.src)) s).bind k

def bodyFamov (o : Fp2) (s : State) : Exec Unit :=
  fpEscape o.d (requireAligned (alignedFor o.s o.src && alignedFor o.r o.dest) <| move o (writeScalar o.r o.dest)) s
def bodyPfamov (o : Fp2) (s : State) : Exec Unit :=
  fpEscape o.d (requireAligned (alignedFor o.s o.src) <| move o (pushAdder o.r o.dest)) s

/-! ### Compares (R353, R354, R355): fdest receives the entry leaving A, and the compare's own entry is empty (R321) -/

/-- A compare at a precision; `test` gives CC. The retiring entry's destination precision is the operand precision. -/
def compare (test : FVal → FVal → Bool) (src1 src2 dest : Reg) (p : Prec) (s : State) : Exec Unit :=
  let a := fval p (s.fr p src1)
  let b := fval p (s.fr p src2)
  let s1 := s.setSE (a.isNan || b.isNan)
  if (a.isNan || b.isNan) && s.fte then raise .ft .fpSource .nothing s1
  else issueAdder p dest none (s1.setCC (test a b))

/-- pfgt's test: F(a) > F(b) (R353). -/
def greater (a b : FVal) : Bool := fLess b a

/-- F(a) ≤ F(b); false when unordered (R354). -/
def lessEqual (a b : FVal) : Bool := fLess a b || fEqual a b

/-- pfle's condition code under a value of PFLE_SENSE (R354). -/
def pfleTest (sense : Config.PfleSense) (a b : FVal) : Bool :=
  match sense with
  | .negated => !lessEqual a b
  | .plain => lessEqual a b

def bodyPfgt (o : FpCmp) (s : State) : Exec Unit :=
  fpEscape o.d (requireAligned (alignedFor o.s o.src1 && alignedFor o.s o.src2) <|
    compare greater o.src1 o.src2 o.dest o.s) s
def bodyPfle (o : FpCmp) (s : State) : Exec Unit :=
  fpEscape o.d (requireAligned (alignedFor o.s o.src1 && alignedFor o.s o.src2) <|
    compare (pfleTest s.params.pfleSense) o.src1 o.src2 o.dest o.s) s
def bodyPfeq (o : Fp3) (s : State) : Exec Unit :=
  fpEscape o.d (requirePair (pairSame o.s o.r) <| requireAligned (alignedFor o.s o.src1 && alignedFor o.s o.src2) <|
    compare fEqual o.src1 o.src2 o.dest o.s) s

/-! ### fxfr (R356) -/

def bodyFxfr (o : FpXfr) (s : State) : Exec Unit := fpEscape o.d (fun s => .done () (s.setX o.dest (s.f o.src))) s

/-! ### The meanings -/

def execFmul (o : Fp3) (s : State) : StepOutcome := finish s.pc (bodyFmul o s)
def execPfmul (o : Fp3) (s : State) : StepOutcome := finish s.pc (bodyPfmul o s)
def execFmlow (o : FpDd) (s : State) : StepOutcome := finish s.pc (bodyFmlow o s)
def execFrcp (o : Fp2) (s : State) : StepOutcome := finish s.pc (bodyFrcp o s)
def execFrsqr (o : Fp2) (s : State) : StepOutcome := finish s.pc (bodyFrsqr o s)
def execPfmul3 (o : FpDd) (s : State) : StepOutcome := finish s.pc (bodyPfmul3 o s)
def execFadd (o : Fp3) (s : State) : StepOutcome := finish s.pc (bodyFadd o s)
def execPfadd (o : Fp3) (s : State) : StepOutcome := finish s.pc (bodyPfadd o s)
def execFsub (o : Fp3) (s : State) : StepOutcome := finish s.pc (bodyFsub o s)
def execPfsub (o : Fp3) (s : State) : StepOutcome := finish s.pc (bodyPfsub o s)
def execFix (o : Fp2) (s : State) : StepOutcome := finish s.pc (bodyFix o s)
def execPfix (o : Fp2) (s : State) : StepOutcome := finish s.pc (bodyPfix o s)
def execFamov (o : Fp2) (s : State) : StepOutcome := finish s.pc (bodyFamov o s)
def execPfamov (o : Fp2) (s : State) : StepOutcome := finish s.pc (bodyPfamov o s)
def execFtrunc (o : Fp2) (s : State) : StepOutcome := finish s.pc (bodyFtrunc o s)
def execPftrunc (o : Fp2) (s : State) : StepOutcome := finish s.pc (bodyPftrunc o s)
def execPfgt (o : FpCmp) (s : State) : StepOutcome := finish s.pc (bodyPfgt o s)
def execPfle (o : FpCmp) (s : State) : StepOutcome := finish s.pc (bodyPfle o s)
def execPfeq (o : Fp3) (s : State) : StepOutcome := finish s.pc (bodyPfeq o s)
def execFxfr (o : FpXfr) (s : State) : StepOutcome := finish s.pc (bodyFxfr o s)

end Sys2Proof.Machine
end

