-- ==== Sys2Proof/Machine/Dual.lean ====
section
/-! DEFINITION. The dual operations pfam, pfsm, pfmam and pfmsm (spec/46_fp_dual.md). -/

namespace Sys2Proof.Machine

/-! ### Operand routing (R380) -/

/-- What the multiplier's first operand is: a constant register, or fsrc1. -/
inductive M1Route where
  | kr
  | ki
  | src1
deriving DecidableEq, Repr

/-- What the multiplier's second operand is. -/
inductive M2Route where
  | src2
  | aout
deriving DecidableEq, Repr

/-- What the adder's first operand is. -/
inductive A1Route where
  | src1
  | t
  | aout
deriving DecidableEq, Repr

/-- What the adder's second operand is. -/
inductive A2Route where
  | src2
  | mout
  | aout
deriving DecidableEq, Repr

/-- The columns M1, M2, A1 and A2 of a DPC value. -/
structure Route where
  m1 : M1Route
  m2 : M2Route
  a1 : A1Route
  a2 : A2Route
deriving DecidableEq, Repr

/-- The operand table (R380). -/
def routeOf (dpc : BitVec 4) : Route :=
  match dpc with
  | 0#4 => { m1 := .kr, m2 := .src2, a1 := .src1, a2 := .mout }
  | 1#4 => { m1 := .kr, m2 := .src2, a1 := .t, a2 := .mout }
  | 2#4 => { m1 := .kr, m2 := .src2, a1 := .src1, a2 := .aout }
  | 3#4 => { m1 := .kr, m2 := .src2, a1 := .t, a2 := .aout }
  | 4#4 => { m1 := .ki, m2 := .src2, a1 := .src1, a2 := .mout }
  | 5#4 => { m1 := .ki, m2 := .src2, a1 := .t, a2 := .mout }
  | 6#4 => { m1 := .ki, m2 := .src2, a1 := .src1, a2 := .aout }
  | 7#4 => { m1 := .ki, m2 := .src2, a1 := .t, a2 := .aout }
  | 8#4 => { m1 := .kr, m2 := .aout, a1 := .src1, a2 := .src2 }
  | 9#4 => { m1 := .src1, m2 := .src2, a1 := .aout, a2 := .mout }
  | 10#4 => { m1 := .kr, m2 := .aout, a1 := .src1, a2 := .src2 }
  | 11#4 => { m1 := .src1, m2 := .src2, a1 := .t, a2 := .aout }
  | 12#4 => { m1 := .ki, m2 := .aout, a1 := .src1, a2 := .src2 }
  | 13#4 => { m1 := .src1, m2 := .src2, a1 := .t, a2 := .mout }
  | 14#4 => { m1 := .ki, m2 := .aout, a1 := .src1, a2 := .src2 }
  | _ => { m1 := .src1, m2 := .src2, a1 := .t, a2 := .aout }

/-! ### Operands -/

/-- An operand of a unit: a value and the precision it carries (none for a register nothing has been written to at a precision), or
the value of an empty stage (R386). -/
inductive UnitOperand where
  | empty
  | value (v : Dword) (tag : Option Prec)
deriving DecidableEq, Repr

/-- A pipeline entry as an operand. -/
def ofEntry : Option Entry → UnitOperand
  | some e => .value e.value (some e.prec)
  | none => .empty

/-- KR, KI or T as an operand. -/
def ofTagged (r : Tagged) : UnitOperand := .value r.value r.tag

/-- The operand's precision is not the other one than the unit needs (R386). -/
def UnitOperand.fits (o : UnitOperand) (p : Prec) : Bool :=
  match o with
  | .empty => true
  | .value _ (some q) => p == q
  | .value _ none => true

/-- Which entry the destination receives (R381 to R384). -/
inductive DualOut where
  | adder
  | multiplier
deriving DecidableEq, Repr

/-- The four operands of a dual operation, and the constant and temporary registers it loads (R385). -/
structure DualOperands where
  m1 : UnitOperand
  m2 : UnitOperand
  a1 : UnitOperand
  a2 : UnitOperand
  knew : Tagged
deriving DecidableEq, Repr

/-- The constant register column M1 names; KR where the column names none (it is then not loaded and not read). -/
def State.kOf (s : State) : M1Route → Tagged
  | .kr => s.kr
  | .ki => s.ki
  | .src1 => s.kr

/-- Read every operand before either push (R323, R385). -/
def dualOperands (dpc : BitVec 4) (o : Fp3) (s : State) : DualOperands :=
  let route := routeOf dpc
  let aout := s.adder.s3
  let mout := s.multiplier.last (depthOf o.s)
  let knew := if s.params.dpcKLoad.getLsbD dpc.toNat then { value := s.fr o.s o.src1, tag := some o.s } else s.kOf route.m1
  let k := if s.params.kLoadUsesNew then knew else s.kOf route.m1
  { m1 := match route.m1 with
      | .kr => ofTagged k
      | .ki => ofTagged k
      | .src1 => .value (s.fr o.s o.src1) (some o.s)
    m2 := match route.m2 with
      | .src2 => .value (s.fr o.s o.src2) (some o.s)
      | .aout => ofEntry aout
    a1 := match route.a1 with
      | .src1 => .value (s.fr o.r o.src1) (some o.r)
      | .t => ofTagged s.t
      | .aout => ofEntry aout
    a2 := match route.a2 with
      | .src2 => .value (s.fr o.r o.src2) (some o.r)
      | .mout => ofEntry mout
      | .aout => ofEntry aout
    knew := knew }

/-- Every operand has the precision its unit needs: S for the multiplier, R for the adder (R386). -/
def DualOperands.fits (ops : DualOperands) (sp rp : Prec) : Bool :=
  ops.m1.fits sp && ops.m2.fits sp && ops.a1.fits rp && ops.a2.fits rp

/-! ### The algorithm (R385) -/

/-- One unit's result: FPCheck of its operation, operands at precision `sp` and result at `rp`; with an empty operand the result
is a free value, the unit's status bits are unchanged and nothing is checked (R386). -/
def unitResult (unit : FpUnit) (op : ExactOp) (sp rp : Prec) (a b : UnitOperand) (s : State) : Exec Dword :=
  match a, b with
  | .value va _, .value vb _ =>
    fpCheck unit (op s.rm (fval sp va) (fval sp vb)) rp (sourceException sp va || sourceException sp vb) s
  | .empty, _ => .done s.free s.nextFree
  | .value _ _, .empty => .done s.free s.nextFree

/-- Both operands are present, so that the unit is checked. -/
def bothPresent : UnitOperand → UnitOperand → Bool
  | .value _ _, .value _ _ => true
  | .empty, _ => false
  | .value _ _, .empty => false

/-- SE after both checks is the OR of the checks made (R386): `before` is the multiplier's. -/
def State.orSE (s : State) (before : Bool) : State := s.setSE (before || s.se)

/-- The constant register is loaded (R387). -/
def State.loadK (s : State) (m1 : M1Route) (k : Tagged) : State :=
  match m1 with
  | .kr => { s with kr := k }
  | .ki => { s with ki := k }
  | .src1 => s

/-- T is loaded with the entry leaving the multiplier; from an empty stage it takes a free value of no precision (R387). -/
def State.loadT (s : State) (mout : Option Entry) : State :=
  match mout with
  | some e => { s with t := { value := e.value, tag := some e.prec } }
  | none => { s.nextFree with t := { value := s.free, tag := none } }

/-- Commit a dual operation: K, T, both pushes, and the retire write of `out` (R385). -/
def dualCommit (dpc : BitVec 4) (out : DualOut) (o : Fp3) (knew : Tagged) (mres ares : Dword)
    (s : State) : Exec Unit :=
  let aout := s.adder.s3
  let mout := s.multiplier.last (depthOf o.s)
  let s1 := if s.params.dpcKLoad.getLsbD dpc.toNat then s.loadK (routeOf dpc).m1 knew else s
  let s2 := if s.params.dpcTLoad.getLsbD dpc.toNat then s1.loadT mout else s1
  let s3 :=
    { s2 with
      adder := s2.adder.push3 (some (entryOf o.r ares))
      multiplier := s2.multiplier.push (depthOf o.s) (some (entryOf o.r mres)) }
  match out with
  | .adder => retire aout o.r o.dest s3
  | .multiplier => retire mout o.r o.dest s3

/-- The two results, multiplier first; a trap of either unit leaves KR, KI, T, both pipelines and fdest unchanged (R385). -/
def dualResults (op : ExactOp) (o : Fp3) (ops : DualOperands) (k : Dword → Dword → State → Exec Unit) (s : State) :
    Exec Unit :=
  (unitResult .multiplier mulOp o.s o.r ops.m1 ops.m2 s).bind fun mres s1 =>
  (unitResult .adder op o.r o.r ops.a1 ops.a2 s1).bind fun ares s2 =>
  k mres ares (if bothPresent ops.a1 ops.a2 then s2.orSE (bothPresent ops.m1 ops.m2 && s1.se) else s2)

/-- `Dual(aop, dpc, out)` (R385). Its `fsrc1/fsrc2/fdest aligned` is read as aligned at R, whatever the row uses of the sources and whatever
precision the leaving entry has (DEDUCED, notes/assumptions/24.md). -/
def dualOp (op : ExactOp) (out : DualOut) (dpc : BitVec 4) (o : Fp3) : State → Exec Unit :=
  fpEscape o.d <| requirePair (pairArith o.s o.r) <|
    requireAligned (alignedFor o.r o.src1 && alignedFor o.r o.src2 && alignedFor o.r o.dest) fun s =>
      let ops := dualOperands dpc o s
      if ops.fits o.s o.r then dualResults op o ops (dualCommit dpc out o ops.knew) s else .refused .mixedPrecision

def bodyPfam (dpc : BitVec 4) (o : Fp3) (s : State) : Exec Unit := dualOp exactAdd .adder dpc o s
def bodyPfsm (dpc : BitVec 4) (o : Fp3) (s : State) : Exec Unit := dualOp exactSub .adder dpc o s
def bodyPfmam (dpc : BitVec 4) (o : Fp3) (s : State) : Exec Unit := dualOp exactAdd .multiplier dpc o s
def bodyPfmsm (dpc : BitVec 4) (o : Fp3) (s : State) : Exec Unit := dualOp exactSub .multiplier dpc o s

def execPfam (dpc : BitVec 4) (o : Fp3) (s : State) : StepOutcome := finish s.pc (bodyPfam dpc o s)
def execPfsm (dpc : BitVec 4) (o : Fp3) (s : State) : StepOutcome := finish s.pc (bodyPfsm dpc o s)
def execPfmam (dpc : BitVec 4) (o : Fp3) (s : State) : StepOutcome := finish s.pc (bodyPfmam dpc o s)
def execPfmsm (dpc : BitVec 4) (o : Fp3) (s : State) : StepOutcome := finish s.pc (bodyPfmsm dpc o s)

end Sys2Proof.Machine
end

