-- ==== Sys2Proof/Machine/Graphics.lean ====
section
/-! DEFINITION. The graphics/integer unit's instructions (spec/47_graphics.md). MERGE and PM are updated when the instruction executes, in
the scalar and the pipelined form alike; the pipelined form issues its result through G. -/

namespace Sys2Proof.Machine

/-- A graphics result in a pipeline entry goes out through G (R317). -/
def pushGraphics (r : Prec) (dest : Reg) (v : Dword) (s : State) : Exec Unit := issueGraphics r dest (some (entryOf r v)) s

/-- A graphics operation: from the two operands and the state, the result and the state with MERGE or PM updated. -/
abbrev GraphicsOp := Dword → Dword → State → Exec Dword

/-- A scalar graphics instruction of two sources. -/
def scalarGraphics (pair : Prec → Prec → Bool) (op : GraphicsOp) (o : Fp3) : State → Exec Unit :=
  fpEscape o.d <| requirePair (pair o.s o.r) <|
    requireAligned (alignedFor o.s o.src1 && alignedFor o.s o.src2 && alignedFor o.r o.dest) fun s =>
      (op (s.fr o.s o.src1) (s.fr o.s o.src2) s).bind (writeScalar o.r o.dest)

/-- A pipelined graphics instruction of two sources. -/
def pipedGraphics (pair : Prec → Prec → Bool) (op : GraphicsOp) (o : Fp3) : State → Exec Unit :=
  fpEscape o.d <| requirePair (pair o.s o.r) <|
    requireAligned (alignedFor o.s o.src1 && alignedFor o.s o.src2) fun s =>
      (op (s.fr o.s o.src1) (s.fr o.s o.src2) s).bind (pushGraphics o.r o.dest)

/-- fiadd (R401): the low half of the sum is the single form's result. -/
def intAdd : GraphicsOp := fun a b s => .done (a + b) s

/-- fisub (R402). -/
def intSub : GraphicsOp := fun a b s => .done (a - b) s

/-- MERGE written; graphics values are doubles (R50). -/
def State.setMerge (s : State) (v : Dword) : State := { s with merge := { value := v, tag := some .double } }

/-- MERGE after faddp, by pixel size; PS = 3 has none (R403). -/
def mergePixels (ps : BitVec 2) (merge r : Dword) : Option Dword :=
  match ps with
  | 0#2 => some ((merge >>> 8) ||| (r &&& 0xFF00FF00FF00FF00#64))
  | 1#2 => some ((merge >>> 6) ||| (r &&& 0xFC00FC00FC00FC00#64))
  | 2#2 => some ((merge >>> 8) ||| (r &&& 0xFF000000FF000000#64))
  | _ => none

/-- faddp (R403). -/
def pixelAdd : GraphicsOp := fun a b s =>
  match mergePixels s.ps s.merge.value (a + b) with
  | some m => .done (a + b) (s.setMerge m)
  | none => .refused .pixelSize3

/-- faddz (R404). -/
def zAdd : GraphicsOp := fun a b s =>
  .done (a + b) (s.setMerge ((s.merge.value >>> 16) ||| ((a + b) &&& 0xFFFF0000FFFF0000#64)))

/-- The lesser of two unsigned fields. -/
def minField {n : Nat} (a b : BitVec n) : BitVec n := if b.ult a then b else a

/-- Field `i` of width 32 of a 64-bit value. -/
def field32 (v : Dword) (i : Nat) : BitVec 32 := v.extractLsb' (32 * i) 32

/-- Field `i` of width 16 of a 64-bit value. -/
def field16 (v : Dword) (i : Nat) : BitVec 16 := v.extractLsb' (16 * i) 16

/-- The new field is less than the old one, as a mask bit (R405, R406). -/
def newerBit {n : Nat} (a b : BitVec n) : BitVec 1 := BitVec.ofBool (a.ult b)

/-- fzchkl (R405). -/
def zCheck32 : GraphicsOp := fun a b s =>
  .done (minField (field32 a 1) (field32 b 1) ++ minField (field32 a 0) (field32 b 0))
    (s.setPM (newerBit (field32 a 1) (field32 b 1) ++ newerBit (field32 a 0) (field32 b 0) ++ s.pm.extractLsb' 2 6))

/-- fzchks (R406). -/
def zCheck16 : GraphicsOp := fun a b s =>
  .done
    (minField (field16 a 3) (field16 b 3) ++ minField (field16 a 2) (field16 b 2) ++
      minField (field16 a 1) (field16 b 1) ++ minField (field16 a 0) (field16 b 0))
    (s.setPM (newerBit (field16 a 3) (field16 b 3) ++ newerBit (field16 a 2) (field16 b 2) ++
      newerBit (field16 a 1) (field16 b 1) ++ newerBit (field16 a 0) (field16 b 0) ++ s.pm.extractLsb' 4 4))

/-- form: the source or MERGE, and MERGE cleared (R407). -/
def orMerge (k : Dword → State → Exec Unit) (src : Reg) (s : State) : Exec Unit :=
  k (s.fd src ||| s.merge.value) (s.setMerge 0#64)

def bodyFiadd (o : Fp3) (s : State) : Exec Unit := scalarGraphics pairSame intAdd o s
def bodyPfiadd (o : Fp3) (s : State) : Exec Unit := pipedGraphics pairSame intAdd o s
def bodyFisub (o : Fp3) (s : State) : Exec Unit := scalarGraphics pairSame intSub o s
def bodyPfisub (o : Fp3) (s : State) : Exec Unit := pipedGraphics pairSame intSub o s
def bodyFaddp (o : Fp3) (s : State) : Exec Unit := scalarGraphics pairDouble pixelAdd o s
def bodyPfaddp (o : Fp3) (s : State) : Exec Unit := pipedGraphics pairDouble pixelAdd o s
def bodyFaddz (o : Fp3) (s : State) : Exec Unit := scalarGraphics pairDouble zAdd o s
def bodyPfaddz (o : Fp3) (s : State) : Exec Unit := pipedGraphics pairDouble zAdd o s
def bodyFzchkl (o : Fp3) (s : State) : Exec Unit := scalarGraphics pairDouble zCheck32 o s
def bodyPfzchkl (o : Fp3) (s : State) : Exec Unit := pipedGraphics pairDouble zCheck32 o s
def bodyFzchks (o : Fp3) (s : State) : Exec Unit := scalarGraphics pairDouble zCheck16 o s
def bodyPfzchks (o : Fp3) (s : State) : Exec Unit := pipedGraphics pairDouble zCheck16 o s
def bodyForm (o : Fp2) (s : State) : Exec Unit :=
  fpEscape o.d (requirePair (pairDouble o.s o.r) <| requireAligned (alignedFor .double o.src && alignedFor .double o.dest) <|
    orMerge (writeScalar .double o.dest) o.src) s
def bodyPform (o : Fp2) (s : State) : Exec Unit :=
  fpEscape o.d (requirePair (pairDouble o.s o.r) <| requireAligned (alignedFor .double o.src) <|
    orMerge (pushGraphics .double o.dest) o.src) s

def execFiadd (o : Fp3) (s : State) : StepOutcome := finish s.pc (bodyFiadd o s)
def execPfiadd (o : Fp3) (s : State) : StepOutcome := finish s.pc (bodyPfiadd o s)
def execFisub (o : Fp3) (s : State) : StepOutcome := finish s.pc (bodyFisub o s)
def execPfisub (o : Fp3) (s : State) : StepOutcome := finish s.pc (bodyPfisub o s)
def execFaddp (o : Fp3) (s : State) : StepOutcome := finish s.pc (bodyFaddp o s)
def execPfaddp (o : Fp3) (s : State) : StepOutcome := finish s.pc (bodyPfaddp o s)
def execFaddz (o : Fp3) (s : State) : StepOutcome := finish s.pc (bodyFaddz o s)
def execPfaddz (o : Fp3) (s : State) : StepOutcome := finish s.pc (bodyPfaddz o s)
def execFzchkl (o : Fp3) (s : State) : StepOutcome := finish s.pc (bodyFzchkl o s)
def execPfzchkl (o : Fp3) (s : State) : StepOutcome := finish s.pc (bodyPfzchkl o s)
def execForm (o : Fp2) (s : State) : StepOutcome := finish s.pc (bodyForm o s)
def execPform (o : Fp2) (s : State) : StepOutcome := finish s.pc (bodyPform o s)
def execFzchks (o : Fp3) (s : State) : StepOutcome := finish s.pc (bodyFzchks o s)
def execPfzchks (o : Fp3) (s : State) : StepOutcome := finish s.pc (bodyPfzchks o s)

end Sys2Proof.Machine
end

