-- ==== Sys2Proof/Machine/Slot.lean ====
section
/-! DEFINITION. The delay slot: the rule of the instruction in it, and `DelaySlot` (spec/42_core_control.md R241 to R244). -/

namespace Sys2Proof.Machine

/-- The instruction reads or writes r1: it is refused in the slot of call and calli (R244). A control transfer is refused in any
slot; a ld.c or st.c of an absent control register is an undefined opcode, which neither reads nor writes r1 (R283, R435); flush
writes the register of its dest field (R174; DEDUCED, notes/assumptions/19.md). -/
def usesLink : Instr → Bool
  | .ldbR src1 src2 dest => src1 == 1#5 || src2 == 1#5 || dest == 1#5
  | .ldbI _ src2 dest => src2 == 1#5 || dest == 1#5
  | .ixfr src1 _ => src1 == 1#5
  | .stb src1 _ src2 => src1 == 1#5 || src2 == 1#5
  | .ldsR src1 src2 dest => src1 == 1#5 || src2 == 1#5 || dest == 1#5
  | .ldlR src1 src2 dest => src1 == 1#5 || src2 == 1#5 || dest == 1#5
  | .ldsI _ src2 dest => src2 == 1#5 || dest == 1#5
  | .ldlI _ src2 dest => src2 == 1#5 || dest == 1#5
  | .sts src1 _ src2 => src1 == 1#5 || src2 == 1#5
  | .stl src1 _ src2 => src1 == 1#5 || src2 == 1#5
  | .flddR src1 src2 _ _ => src1 == 1#5 || src2 == 1#5
  | .fldlR src1 src2 _ _ => src1 == 1#5 || src2 == 1#5
  | .fldqR src1 src2 _ _ => src1 == 1#5 || src2 == 1#5
  | .flddI _ src2 _ _ => src2 == 1#5
  | .fldlI _ src2 _ _ => src2 == 1#5
  | .fldqI _ src2 _ _ => src2 == 1#5
  | .fstdR src1 src2 _ _ => src1 == 1#5 || src2 == 1#5
  | .fstlR src1 src2 _ _ => src1 == 1#5 || src2 == 1#5
  | .fstqR src1 src2 _ _ => src1 == 1#5 || src2 == 1#5
  | .fstdI _ src2 _ _ => src2 == 1#5
  | .fstlI _ src2 _ _ => src2 == 1#5
  | .fstqI _ src2 _ _ => src2 == 1#5
  | .ldc csrc2 dest => decide (csrc2.toNat < 6) && dest == 1#5
  | .flush _ src2 dest _ => src2 == 1#5 || dest == 1#5
  | .stc src1 csrc2 => decide (csrc2.toNat < 6) && src1 == 1#5
  | .pstd _ _ src2 _ => src2 == 1#5
  | .bri _ => false
  | .trap _ _ _ => false
  | .btneR _ _ _ => false
  | .btneI _ _ _ => false
  | .bteR _ _ _ => false
  | .bteI _ _ _ => false
  | .pflddR src1 src2 _ _ => src1 == 1#5 || src2 == 1#5
  | .pfldlR src1 src2 _ _ => src1 == 1#5 || src2 == 1#5
  | .pflddI _ src2 _ _ => src2 == 1#5
  | .pfldlI _ src2 _ _ => src2 == 1#5
  | .br _ => false
  | .call _ => false
  | .bc _ => false
  | .bct _ => false
  | .bnc _ => false
  | .bnct _ => false
  | .adduR src1 src2 dest => src1 == 1#5 || src2 == 1#5 || dest == 1#5
  | .adduI _ src2 dest => src2 == 1#5 || dest == 1#5
  | .subuR src1 src2 dest => src1 == 1#5 || src2 == 1#5 || dest == 1#5
  | .subuI _ src2 dest => src2 == 1#5 || dest == 1#5
  | .addsR src1 src2 dest => src1 == 1#5 || src2 == 1#5 || dest == 1#5
  | .addsI _ src2 dest => src2 == 1#5 || dest == 1#5
  | .subsR src1 src2 dest => src1 == 1#5 || src2 == 1#5 || dest == 1#5
  | .subsI _ src2 dest => src2 == 1#5 || dest == 1#5
  | .shlR src1 src2 dest => src1 == 1#5 || src2 == 1#5 || dest == 1#5
  | .shlI _ src2 dest => src2 == 1#5 || dest == 1#5
  | .shrR src1 src2 dest => src1 == 1#5 || src2 == 1#5 || dest == 1#5
  | .shrI _ src2 dest => src2 == 1#5 || dest == 1#5
  | .shraR src1 src2 dest => src1 == 1#5 || src2 == 1#5 || dest == 1#5
  | .shraI _ src2 dest => src2 == 1#5 || dest == 1#5
  | .andR src1 src2 dest => src1 == 1#5 || src2 == 1#5 || dest == 1#5
  | .andI _ src2 dest => src2 == 1#5 || dest == 1#5
  | .andnotR src1 src2 dest => src1 == 1#5 || src2 == 1#5 || dest == 1#5
  | .andnotI _ src2 dest => src2 == 1#5 || dest == 1#5
  | .orR src1 src2 dest => src1 == 1#5 || src2 == 1#5 || dest == 1#5
  | .orI _ src2 dest => src2 == 1#5 || dest == 1#5
  | .xorR src1 src2 dest => src1 == 1#5 || src2 == 1#5 || dest == 1#5
  | .xorI _ src2 dest => src2 == 1#5 || dest == 1#5
  | .shrd src1 src2 dest => src1 == 1#5 || src2 == 1#5 || dest == 1#5
  | .bla _ _ _ => false
  | .andh _ src2 dest => src2 == 1#5 || dest == 1#5
  | .andnoth _ src2 dest => src2 == 1#5 || dest == 1#5
  | .orh _ src2 dest => src2 == 1#5 || dest == 1#5
  | .xorh _ src2 dest => src2 == 1#5 || dest == 1#5
  | .lock => false
  | .calli _ => false
  | .intovr => false
  | .unlock => false
  | .pfmam _ _ => false
  | .pfmsm _ _ => false
  | .pfam _ _ => false
  | .pfsm _ _ => false
  | .fmul _ => false
  | .pfmul _ => false
  | .fmlow _ => false
  | .frcp _ => false
  | .frsqr _ => false
  | .pfmul3 _ => false
  | .fadd _ => false
  | .pfadd _ => false
  | .fsub _ => false
  | .pfsub _ => false
  | .fix _ => false
  | .pfix _ => false
  | .famov _ => false
  | .pfamov _ => false
  | .ftrunc _ => false
  | .pftrunc _ => false
  | .pfgt _ => false
  | .pfle _ => false
  | .pfeq _ => false
  | .fxfr o => o.dest == 1#5
  | .fiadd _ => false
  | .pfiadd _ => false
  | .fisub _ => false
  | .pfisub _ => false
  | .faddp _ => false
  | .pfaddp _ => false
  | .faddz _ => false
  | .pfaddz _ => false
  | .fzchkl _ => false
  | .pfzchkl _ => false
  | .form _ => false
  | .pform _ => false
  | .fzchks _ => false
  | .pfzchks _ => false

/-- The rule of the instruction in a delay slot (R241); a control transfer has none. -/
def slotBody (i : Instr) (s : State) : Exec Unit :=
  match i with
  | .ldbR src1 src2 dest => bodyLdbR src1 src2 dest s
  | .ldbI imm src2 dest => bodyLdbI imm src2 dest s
  | .ixfr src1 fdest => bodyIxfr src1 fdest s
  | .stb src1 imm src2 => bodyStb src1 imm src2 s
  | .ldsR src1 src2 dest => bodyLdsR src1 src2 dest s
  | .ldlR src1 src2 dest => bodyLdlR src1 src2 dest s
  | .ldsI imm src2 dest => bodyLdsI imm src2 dest s
  | .ldlI imm src2 dest => bodyLdlI imm src2 dest s
  | .sts src1 imm src2 => bodySts src1 imm src2 s
  | .stl src1 imm src2 => bodyStl src1 imm src2 s
  | .flddR src1 src2 fdest inc => bodyFlddR src1 src2 fdest inc s
  | .fldlR src1 src2 fdest inc => bodyFldlR src1 src2 fdest inc s
  | .fldqR src1 src2 fdest inc => bodyFldqR src1 src2 fdest inc s
  | .flddI imm src2 fdest inc => bodyFlddI imm src2 fdest inc s
  | .fldlI imm src2 fdest inc => bodyFldlI imm src2 fdest inc s
  | .fldqI imm src2 fdest inc => bodyFldqI imm src2 fdest inc s
  | .fstdR src1 src2 fdest inc => bodyFstdR src1 src2 fdest inc s
  | .fstlR src1 src2 fdest inc => bodyFstlR src1 src2 fdest inc s
  | .fstqR src1 src2 fdest inc => bodyFstqR src1 src2 fdest inc s
  | .fstdI imm src2 fdest inc => bodyFstdI imm src2 fdest inc s
  | .fstlI imm src2 fdest inc => bodyFstlI imm src2 fdest inc s
  | .fstqI imm src2 fdest inc => bodyFstqI imm src2 fdest inc s
  | .ldc csrc2 dest => bodyLdc csrc2 dest s
  | .flush imm src2 dest inc => bodyFlush imm src2 dest inc s
  | .stc src1 csrc2 => bodyStc src1 csrc2 s
  | .pstd fdest imm src2 inc => bodyPstd fdest imm src2 inc s
  | .bri _ => .refused .controlTransferInSlot
  | .trap _ _ _ => .refused .controlTransferInSlot
  | .btneR _ _ _ => .refused .controlTransferInSlot
  | .btneI _ _ _ => .refused .controlTransferInSlot
  | .bteR _ _ _ => .refused .controlTransferInSlot
  | .bteI _ _ _ => .refused .controlTransferInSlot
  | .pflddR src1 src2 fdest inc => bodyPflddR src1 src2 fdest inc s
  | .pfldlR src1 src2 fdest inc => bodyPfldlR src1 src2 fdest inc s
  | .pflddI imm src2 fdest inc => bodyPflddI imm src2 fdest inc s
  | .pfldlI imm src2 fdest inc => bodyPfldlI imm src2 fdest inc s
  | .br _ => .refused .controlTransferInSlot
  | .call _ => .refused .controlTransferInSlot
  | .bc _ => .refused .controlTransferInSlot
  | .bct _ => .refused .controlTransferInSlot
  | .bnc _ => .refused .controlTransferInSlot
  | .bnct _ => .refused .controlTransferInSlot
  | .adduR src1 src2 dest => bodyAdduR src1 src2 dest s
  | .adduI imm src2 dest => bodyAdduI imm src2 dest s
  | .subuR src1 src2 dest => bodySubuR src1 src2 dest s
  | .subuI imm src2 dest => bodySubuI imm src2 dest s
  | .addsR src1 src2 dest => bodyAddsR src1 src2 dest s
  | .addsI imm src2 dest => bodyAddsI imm src2 dest s
  | .subsR src1 src2 dest => bodySubsR src1 src2 dest s
  | .subsI imm src2 dest => bodySubsI imm src2 dest s
  | .shlR src1 src2 dest => bodyShlR src1 src2 dest s
  | .shlI imm src2 dest => bodyShlI imm src2 dest s
  | .shrR src1 src2 dest => bodyShrR src1 src2 dest s
  | .shrI imm src2 dest => bodyShrI imm src2 dest s
  | .shraR src1 src2 dest => bodyShraR src1 src2 dest s
  | .shraI imm src2 dest => bodyShraI imm src2 dest s
  | .andR src1 src2 dest => bodyAndR src1 src2 dest s
  | .andI imm src2 dest => bodyAndI imm src2 dest s
  | .andnotR src1 src2 dest => bodyAndnotR src1 src2 dest s
  | .andnotI imm src2 dest => bodyAndnotI imm src2 dest s
  | .orR src1 src2 dest => bodyOrR src1 src2 dest s
  | .orI imm src2 dest => bodyOrI imm src2 dest s
  | .xorR src1 src2 dest => bodyXorR src1 src2 dest s
  | .xorI imm src2 dest => bodyXorI imm src2 dest s
  | .shrd src1 src2 dest => bodyShrd src1 src2 dest s
  | .bla _ _ _ => .refused .controlTransferInSlot
  | .andh imm src2 dest => bodyAndh imm src2 dest s
  | .andnoth imm src2 dest => bodyAndnoth imm src2 dest s
  | .orh imm src2 dest => bodyOrh imm src2 dest s
  | .xorh imm src2 dest => bodyXorh imm src2 dest s
  | .lock => .refused .controlTransferInSlot
  | .calli _ => .refused .controlTransferInSlot
  | .intovr => .refused .controlTransferInSlot
  | .unlock => .refused .controlTransferInSlot
  | .pfmam dpc o => bodyPfmam dpc o s
  | .pfmsm dpc o => bodyPfmsm dpc o s
  | .pfam dpc o => bodyPfam dpc o s
  | .pfsm dpc o => bodyPfsm dpc o s
  | .fmul o => bodyFmul o s
  | .pfmul o => bodyPfmul o s
  | .fmlow o => bodyFmlow o s
  | .frcp o => bodyFrcp o s
  | .frsqr o => bodyFrsqr o s
  | .pfmul3 o => bodyPfmul3 o s
  | .fadd o => bodyFadd o s
  | .pfadd o => bodyPfadd o s
  | .fsub o => bodyFsub o s
  | .pfsub o => bodyPfsub o s
  | .fix o => bodyFix o s
  | .pfix o => bodyPfix o s
  | .famov o => bodyFamov o s
  | .pfamov o => bodyPfamov o s
  | .ftrunc o => bodyFtrunc o s
  | .pftrunc o => bodyPftrunc o s
  | .pfgt o => bodyPfgt o s
  | .pfle o => bodyPfle o s
  | .pfeq o => bodyPfeq o s
  | .fxfr o => bodyFxfr o s
  | .fiadd o => bodyFiadd o s
  | .pfiadd o => bodyPfiadd o s
  | .fisub o => bodyFisub o s
  | .pfisub o => bodyPfisub o s
  | .faddp o => bodyFaddp o s
  | .pfaddp o => bodyPfaddp o s
  | .faddz o => bodyFaddz o s
  | .pfaddz o => bodyPfaddz o s
  | .fzchkl o => bodyFzchkl o s
  | .pfzchkl o => bodyPfzchkl o s
  | .form o => bodyForm o s
  | .pform o => bodyPform o s
  | .fzchks o => bodyFzchks o s
  | .pfzchks o => bodyPfzchks o s

/-- Execute the decoded word of a delay slot at the state whose pc is its address (R241): an undefined opcode raises IT there; a
control transfer is refused, and with `link` an instruction that uses r1 (R244), unless psr.KNF suppresses it. -/
def slotDecoded (link : Bool) (w : Word) (s : State) : Exec Unit :=
  match decodeWord w with
  | .undefined => raise .it .undefinedOpcode (.word w) s
  | .reserved form d =>
    if form.isFp then fpEscape d (fun _ => .refused (.reservedForm form)) s else .refused (.reservedForm form)
  | .instr i => if link && usesLink i && !((opFlags w).fp && s.knf) then .refused .linkRegisterInCallSlot else slotBody i s

/-- Fetch and execute the slot instruction at pc (R241). -/
def slotRun (link : Bool) (s : State) : Exec Unit := (fetch s.pc s).bind (slotDecoded link)

/-- The branch after its slot: a trap of the slot instruction is marked, and the target only remembered; otherwise control goes to
`next` (R241, R242). -/
def afterSlot (b next : Word) (s : State) : Exec (Option Word) :=
  if s.pendSync then .trapped { s with pc := b, pendDslot := true, dslotTarget := next }
  else .done (some next) { s with pc := b }

/-- `DelaySlot(next)` of the branch at pc, executed inside the branch's step (R241); `link` is true for call and calli (R244). -/
def delaySlot (link : Bool) (next : Word) (s : State) : Exec (Option Word) :=
  match slotRun link { s with pc := s.pc + 4#32 } with
  | .done _ t => afterSlot s.pc next t
  | .trapped t => afterSlot s.pc next t
  | .faulted f => .faulted f
  | .refused q => .refused q

end Sys2Proof.Machine
end

