-- ==== Sys2Proof/Machine/Control.lean ====
section
/-! DEFINITION. The control-transfer instructions and the trap return (spec/42_core_control.md). A body answers the target of its
`pc <-`, if it sets the pc; the branch's own address is pc. -/

namespace Sys2Proof.Machine

/-- A non-delayed branch: the target if taken, else sequential (R240). -/
def branchIf (taken : Bool) (target : Word) (s : State) : Exec (Option Word) :=
  .done (if taken then some target else none) s

/-- A conditional delayed branch: the slot is executed only when taken, and skipped otherwise (R248). -/
def delayedIf (taken : Bool) (target : Word) (s : State) : Exec (Option Word) :=
  if taken then delaySlot false target s else .done (some (s.pc + 8#32)) s

/-- br (R245). -/
def bodyBr (off : BitVec 26) (s : State) : Exec (Option Word) := delaySlot false (longTarget s.pc off) s

/-- call: r1 takes the address after the slot (R246). -/
def bodyCall (off : BitVec 26) (s : State) : Exec (Option Word) :=
  delaySlot true (longTarget s.pc off) (s.setX 1#5 (s.pc + 8#32))

/-- bc (R247). -/
def bodyBc (off : BitVec 26) (s : State) : Exec (Option Word) := branchIf s.cc (longTarget s.pc off) s
/-- bnc (R247). -/
def bodyBnc (off : BitVec 26) (s : State) : Exec (Option Word) := branchIf (!s.cc) (longTarget s.pc off) s
/-- bc.t (R248). -/
def bodyBct (off : BitVec 26) (s : State) : Exec (Option Word) := delayedIf s.cc (longTarget s.pc off) s
/-- bnc.t (R248). -/
def bodyBnct (off : BitVec 26) (s : State) : Exec (Option Word) := delayedIf (!s.cc) (longTarget s.pc off) s

/-- bla: the counter and LCC are written before the slot; the old LCC decides (R249). -/
def bodyBla (src1 src2 : Reg) (off : BitVec 16) (s : State) : Exec (Option Word) :=
  delaySlot false (if s.lcc then shortTarget s.pc off else s.pc + 8#32)
    ((s.setX src2 (s.x src1 + s.x src2)).setLCC (blaLCC (s.x src1) (s.x src2)))

/-- bri: the target is read before the slot; the trap return follows it (R250). -/
def bodyBri (src1 : Reg) (s : State) : Exec (Option Word) :=
  (delaySlot false (s.x src1) s).bind fun target t => .done target t.trapReturn

/-- bte, register form (R251). -/
def bodyBteR (src1 src2 : Reg) (off : BitVec 16) (s : State) : Exec (Option Word) :=
  branchIf (s.x src1 == s.x src2) (shortTarget s.pc off) s
/-- bte, immediate form: the constant is zero-extended (R115, R251). -/
def bodyBteI (const5 : BitVec 5) (src2 : Reg) (off : BitVec 16) (s : State) : Exec (Option Word) :=
  branchIf (const5.setWidth 32 == s.x src2) (shortTarget s.pc off) s
/-- btne, register form (R251). -/
def bodyBtneR (src1 src2 : Reg) (off : BitVec 16) (s : State) : Exec (Option Word) :=
  branchIf (s.x src1 != s.x src2) (shortTarget s.pc off) s
/-- btne, immediate form (R115, R251). -/
def bodyBtneI (const5 : BitVec 5) (src2 : Reg) (off : BitVec 16) (s : State) : Exec (Option Word) :=
  branchIf (const5.setWidth 32 != s.x src2) (shortTarget s.pc off) s

/-- calli: the target is read before the link is written (R252). -/
def bodyCalli (src1 : Reg) (s : State) : Exec (Option Word) :=
  delaySlot true (s.x src1) (s.setX 1#5 (s.pc + 8#32))

def execBr (lbroff : BitVec 26) (s : State) : StepOutcome := finishAt s.pc (bodyBr lbroff s)
def execCall (lbroff : BitVec 26) (s : State) : StepOutcome := finishAt s.pc (bodyCall lbroff s)
def execBc (lbroff : BitVec 26) (s : State) : StepOutcome := finishAt s.pc (bodyBc lbroff s)
def execBct (lbroff : BitVec 26) (s : State) : StepOutcome := finishAt s.pc (bodyBct lbroff s)
def execBnc (lbroff : BitVec 26) (s : State) : StepOutcome := finishAt s.pc (bodyBnc lbroff s)
def execBnct (lbroff : BitVec 26) (s : State) : StepOutcome := finishAt s.pc (bodyBnct lbroff s)
def execBla (src1 src2 : Reg) (sbroff : BitVec 16) (s : State) : StepOutcome := finishAt s.pc (bodyBla src1 src2 sbroff s)
def execBri (src1 : Reg) (s : State) : StepOutcome := finishAt s.pc (bodyBri src1 s)
def execBteR (src1 src2 : Reg) (sbroff : BitVec 16) (s : State) : StepOutcome := finishAt s.pc (bodyBteR src1 src2 sbroff s)
def execBteI (const5 : BitVec 5) (src2 : Reg) (sbroff : BitVec 16) (s : State) : StepOutcome :=
  finishAt s.pc (bodyBteI const5 src2 sbroff s)
def execBtneR (src1 src2 : Reg) (sbroff : BitVec 16) (s : State) : StepOutcome := finishAt s.pc (bodyBtneR src1 src2 sbroff s)
def execBtneI (const5 : BitVec 5) (src2 : Reg) (sbroff : BitVec 16) (s : State) : StepOutcome :=
  finishAt s.pc (bodyBtneI const5 src2 sbroff s)
def execCalli (src1 : Reg) (s : State) : StepOutcome := finishAt s.pc (bodyCalli src1 s)

end Sys2Proof.Machine
end

