-- ==== Sys2Proof/Machine/Dispatch.lean ====
section
/-! DEFINITION. One arm for each instruction: a direct call of its meaning. -/

namespace Sys2Proof.Machine

def exec (i : Instr) (s : State) : Host.Outcome State Fault Refusal :=
  match i with
  | .ldbR src1 src2 dest => Sys2Proof.Machine.execLdbR src1 src2 dest s
  | .ldbI imm src2 dest => Sys2Proof.Machine.execLdbI imm src2 dest s
  | .ixfr src1 fdest => Sys2Proof.Machine.execIxfr src1 fdest s
  | .stb src1 imm src2 => Sys2Proof.Machine.execStb src1 imm src2 s
  | .ldsR src1 src2 dest => Sys2Proof.Machine.execLdsR src1 src2 dest s
  | .ldlR src1 src2 dest => Sys2Proof.Machine.execLdlR src1 src2 dest s
  | .ldsI imm src2 dest => Sys2Proof.Machine.execLdsI imm src2 dest s
  | .ldlI imm src2 dest => Sys2Proof.Machine.execLdlI imm src2 dest s
  | .sts src1 imm src2 => Sys2Proof.Machine.execSts src1 imm src2 s
  | .stl src1 imm src2 => Sys2Proof.Machine.execStl src1 imm src2 s
  | .flddR src1 src2 fdest inc => Sys2Proof.Machine.execFlddR src1 src2 fdest inc s
  | .fldlR src1 src2 fdest inc => Sys2Proof.Machine.execFldlR src1 src2 fdest inc s
  | .fldqR src1 src2 fdest inc => Sys2Proof.Machine.execFldqR src1 src2 fdest inc s
  | .flddI imm src2 fdest inc => Sys2Proof.Machine.execFlddI imm src2 fdest inc s
  | .fldlI imm src2 fdest inc => Sys2Proof.Machine.execFldlI imm src2 fdest inc s
  | .fldqI imm src2 fdest inc => Sys2Proof.Machine.execFldqI imm src2 fdest inc s
  | .fstdR src1 src2 fdest inc => Sys2Proof.Machine.execFstdR src1 src2 fdest inc s
  | .fstlR src1 src2 fdest inc => Sys2Proof.Machine.execFstlR src1 src2 fdest inc s
  | .fstqR src1 src2 fdest inc => Sys2Proof.Machine.execFstqR src1 src2 fdest inc s
  | .fstdI imm src2 fdest inc => Sys2Proof.Machine.execFstdI imm src2 fdest inc s
  | .fstlI imm src2 fdest inc => Sys2Proof.Machine.execFstlI imm src2 fdest inc s
  | .fstqI imm src2 fdest inc => Sys2Proof.Machine.execFstqI imm src2 fdest inc s
  | .ldc csrc2 dest => Sys2Proof.Machine.execLdc csrc2 dest s
  | .flush imm src2 dest inc => Sys2Proof.Machine.execFlush imm src2 dest inc s
  | .stc src1 csrc2 => Sys2Proof.Machine.execStc src1 csrc2 s
  | .pstd fdest imm src2 inc => Sys2Proof.Machine.execPstd fdest imm src2 inc s
  | .bri src1 => Sys2Proof.Machine.execBri src1 s
  | .trap src1 src2 dest => Sys2Proof.Machine.execTrap src1 src2 dest s
  | .btneR src1 src2 sbroff => Sys2Proof.Machine.execBtneR src1 src2 sbroff s
  | .btneI const5 src2 sbroff => Sys2Proof.Machine.execBtneI const5 src2 sbroff s
  | .bteR src1 src2 sbroff => Sys2Proof.Machine.execBteR src1 src2 sbroff s
  | .bteI const5 src2 sbroff => Sys2Proof.Machine.execBteI const5 src2 sbroff s
  | .pflddR src1 src2 fdest inc => Sys2Proof.Machine.execPflddR src1 src2 fdest inc s
  | .pfldlR src1 src2 fdest inc => Sys2Proof.Machine.execPfldlR src1 src2 fdest inc s
  | .pflddI imm src2 fdest inc => Sys2Proof.Machine.execPflddI imm src2 fdest inc s
  | .pfldlI imm src2 fdest inc => Sys2Proof.Machine.execPfldlI imm src2 fdest inc s
  | .br lbroff => Sys2Proof.Machine.execBr lbroff s
  | .call lbroff => Sys2Proof.Machine.execCall lbroff s
  | .bc lbroff => Sys2Proof.Machine.execBc lbroff s
  | .bct lbroff => Sys2Proof.Machine.execBct lbroff s
  | .bnc lbroff => Sys2Proof.Machine.execBnc lbroff s
  | .bnct lbroff => Sys2Proof.Machine.execBnct lbroff s
  | .adduR src1 src2 dest => Sys2Proof.Machine.execAdduR src1 src2 dest s
  | .adduI imm src2 dest => Sys2Proof.Machine.execAdduI imm src2 dest s
  | .subuR src1 src2 dest => Sys2Proof.Machine.execSubuR src1 src2 dest s
  | .subuI imm src2 dest => Sys2Proof.Machine.execSubuI imm src2 dest s
  | .addsR src1 src2 dest => Sys2Proof.Machine.execAddsR src1 src2 dest s
  | .addsI imm src2 dest => Sys2Proof.Machine.execAddsI imm src2 dest s
  | .subsR src1 src2 dest => Sys2Proof.Machine.execSubsR src1 src2 dest s
  | .subsI imm src2 dest => Sys2Proof.Machine.execSubsI imm src2 dest s
  | .shlR src1 src2 dest => Sys2Proof.Machine.execShlR src1 src2 dest s
  | .shlI imm src2 dest => Sys2Proof.Machine.execShlI imm src2 dest s
  | .shrR src1 src2 dest => Sys2Proof.Machine.execShrR src1 src2 dest s
  | .shrI imm src2 dest => Sys2Proof.Machine.execShrI imm src2 dest s
  | .shraR src1 src2 dest => Sys2Proof.Machine.execShraR src1 src2 dest s
  | .shraI imm src2 dest => Sys2Proof.Machine.execShraI imm src2 dest s
  | .andR src1 src2 dest => Sys2Proof.Machine.execAndR src1 src2 dest s
  | .andI imm src2 dest => Sys2Proof.Machine.execAndI imm src2 dest s
  | .andnotR src1 src2 dest => Sys2Proof.Machine.execAndnotR src1 src2 dest s
  | .andnotI imm src2 dest => Sys2Proof.Machine.execAndnotI imm src2 dest s
  | .orR src1 src2 dest => Sys2Proof.Machine.execOrR src1 src2 dest s
  | .orI imm src2 dest => Sys2Proof.Machine.execOrI imm src2 dest s
  | .xorR src1 src2 dest => Sys2Proof.Machine.execXorR src1 src2 dest s
  | .xorI imm src2 dest => Sys2Proof.Machine.execXorI imm src2 dest s
  | .shrd src1 src2 dest => Sys2Proof.Machine.execShrd src1 src2 dest s
  | .bla src1 src2 sbroff => Sys2Proof.Machine.execBla src1 src2 sbroff s
  | .andh imm src2 dest => Sys2Proof.Machine.execAndh imm src2 dest s
  | .andnoth imm src2 dest => Sys2Proof.Machine.execAndnoth imm src2 dest s
  | .orh imm src2 dest => Sys2Proof.Machine.execOrh imm src2 dest s
  | .xorh imm src2 dest => Sys2Proof.Machine.execXorh imm src2 dest s
  | .lock => Sys2Proof.Machine.execLock s
  | .calli src1 => Sys2Proof.Machine.execCalli src1 s
  | .intovr => Sys2Proof.Machine.execIntovr s
  | .unlock => Sys2Proof.Machine.execUnlock s
  | .pfmam dpc o => Sys2Proof.Machine.execPfmam dpc o s
  | .pfmsm dpc o => Sys2Proof.Machine.execPfmsm dpc o s
  | .pfam dpc o => Sys2Proof.Machine.execPfam dpc o s
  | .pfsm dpc o => Sys2Proof.Machine.execPfsm dpc o s
  | .fmul o => Sys2Proof.Machine.execFmul o s
  | .pfmul o => Sys2Proof.Machine.execPfmul o s
  | .fmlow o => Sys2Proof.Machine.execFmlow o s
  | .frcp o => Sys2Proof.Machine.execFrcp o s
  | .frsqr o => Sys2Proof.Machine.execFrsqr o s
  | .pfmul3 o => Sys2Proof.Machine.execPfmul3 o s
  | .fadd o => Sys2Proof.Machine.execFadd o s
  | .pfadd o => Sys2Proof.Machine.execPfadd o s
  | .fsub o => Sys2Proof.Machine.execFsub o s
  | .pfsub o => Sys2Proof.Machine.execPfsub o s
  | .fix o => Sys2Proof.Machine.execFix o s
  | .pfix o => Sys2Proof.Machine.execPfix o s
  | .famov o => Sys2Proof.Machine.execFamov o s
  | .pfamov o => Sys2Proof.Machine.execPfamov o s
  | .ftrunc o => Sys2Proof.Machine.execFtrunc o s
  | .pftrunc o => Sys2Proof.Machine.execPftrunc o s
  | .pfgt o => Sys2Proof.Machine.execPfgt o s
  | .pfle o => Sys2Proof.Machine.execPfle o s
  | .pfeq o => Sys2Proof.Machine.execPfeq o s
  | .fxfr o => Sys2Proof.Machine.execFxfr o s
  | .fiadd o => Sys2Proof.Machine.execFiadd o s
  | .pfiadd o => Sys2Proof.Machine.execPfiadd o s
  | .fisub o => Sys2Proof.Machine.execFisub o s
  | .pfisub o => Sys2Proof.Machine.execPfisub o s
  | .faddp o => Sys2Proof.Machine.execFaddp o s
  | .pfaddp o => Sys2Proof.Machine.execPfaddp o s
  | .faddz o => Sys2Proof.Machine.execFaddz o s
  | .pfaddz o => Sys2Proof.Machine.execPfaddz o s
  | .fzchkl o => Sys2Proof.Machine.execFzchkl o s
  | .pfzchkl o => Sys2Proof.Machine.execPfzchkl o s
  | .form o => Sys2Proof.Machine.execForm o s
  | .pform o => Sys2Proof.Machine.execPform o s
  | .fzchks o => Sys2Proof.Machine.execFzchks o s
  | .pfzchks o => Sys2Proof.Machine.execPfzchks o s

end Sys2Proof.Machine
end

