-- ==== Sys2Proof/Machine/Driver.lean ====
section
/-! DEFINITION. The execution driver's parts: what a step does with the word it fetched, and where an instruction must stand to be
fetched next (spec/30_encoding.md R132). -/

namespace Sys2Proof.Machine

/-- Execute a fetched word: an undefined opcode raises IT (R127), also as an FP-escape word with D = 1 under DUAL_MODE_POLICY = refuse (R122)
or with psr.KNF set (R133), since it has no handler (DEDUCED, notes/assumptions/16.md); a reserved form is refused (R129) unless psr.KNF
suppresses it (R133); an instruction has its meaning. -/
def runDecoded (w : Word) (s : State) : StepOutcome :=
  match decodeWord w with
  | .instr i => exec i s
  | .undefined => finish s.pc (raise .it .undefinedOpcode (.word w) s)
  | .reserved form d =>
    if form.isFp then finish s.pc (fpEscape d (fun _ => .refused (.reservedForm form)) s)
    else .refused (.reservedForm form)

/-- One step with HOLD and RESET not asserted: fetch at pc, then execute; a fetch that traps ends the step (R132). -/
def runStep (s : State) : StepOutcome :=
  match fetch s.pc s with
  | .done w t => runDecoded w t
  | .trapped t => .next (t.endStep s.pc none)
  | .faulted f => .fault f
  | .refused q => .refused q

/-- The core takes no step: HOLD or RESET is asserted (R464, R473). -/
def State.held (s : State) : Bool := s.holdPin || s.resetPin

/-- The physical address a fetch at pc reads, where its translation succeeds; else the pc itself (R94). -/
def State.fetchAddress (s : State) : Word :=
  match translate s.pc .execute s with
  | .done pa _ => pa
  | .trapped _ => s.pc
  | .faulted _ => s.pc
  | .refused _ => s.pc

/-- The state with a word stored where the next step fetches, and HOLD and RESET not asserted. -/
def State.placeWord (s : State) (w : Word) : State :=
  { s with mem := s.mem.setWord s.params.fetchBigEndian s.fetchAddress w, holdPin := false, resetPin := false }

end Sys2Proof.Machine
end

