-- ==== Sys2Proof/Machine/Step.lean ====
section
/-! DEFINITION. One step of the machine (spec/30_encoding.md R132), and the state whose next step runs a given instruction. -/

namespace Sys2Proof.Machine

/-- `Step()`: no step while HOLD or RESET is asserted (R464, R473). -/
def step (s : State) : Host.Outcome State Fault Refusal := if s.held then .next s else runStep s

/-- The state with an instruction of `nbits` bits stored where step fetches its next instruction; every bit above is 0. -/
def State.withFetchWord (s : State) (nbits w : Nat) : State := s.placeWord (BitVec.ofNat 32 (w % 2 ^ nbits))

end Sys2Proof.Machine
end

