-- ==== Sys2Proof/Safety.lean ====
section
/-! DEFINITION. What statements about the machine are written in: the invariant of its states, how an instruction completes, and
the frames (what is left unchanged). -/

namespace Sys2Proof.Machine

/-! ### The invariant -/

/-- A single-precision entry occupies bits 31:0 of its slot (R52). -/
def Entry.fits (e : Entry) : Bool := e.prec == .double || e.value.extractLsb' 32 32 == 0#32

/-- A stage is empty or holds an entry that fits (R52). -/
def stageFits : Option Entry → Bool
  | some e => e.fits
  | none => true

/-- Every stage of a pipeline fits (R52). -/
def Pipe.fits (p : Pipe) : Bool := stageFits p.s1 && stageFits p.s2 && stageFits p.s3

/-- The reserved fields of psr, dirbase, fsr and epsr hold zero, and so do ITI and the bits of fsr and epsr that are views (R30,
R31, R33, R34, R37). -/
def State.reservedZero (s : State) : Bool :=
  s.psr &&& ~~~psrDefined == 0#32 && s.dirbase &&& ~~~dirbaseMask == 0#32 && s.fsr &&& ~~~fsrMask == 0#32 &&
    s.epsr &&& ~~~epsrMask == 0#32

/-- The part of the invariant that holds inside a step too: memory in its canonical form, reserved fields zero, entries that
fit. -/
def State.sound (s : State) : Bool :=
  s.mem.wf && s.reservedZero && s.adder.fits && s.multiplier.fits && s.loader.fits && stageFits s.graphics

/-- No trap is pending: what holds between steps (R55, R450). -/
def State.quiet (s : State) : Bool := !s.pendSync && !s.pendDslot && !s.pendExt

/-- The invariant of the machine's states between steps. -/
def State.Inv (s : State) : Prop := s.sound = true ∧ s.quiet = true

/-! ### Completion and traps -/

/-- The instruction completes: it has the effect `effect` on the state, and then the step ends (R132: the interrupt sample, and the
advance to `target` or to the next word, or trap entry). With no trap pending and no interrupt to recognise, the state after the step
is that of the effect, with the pc at the target or at the next word. -/
def Completes (i : Instr) (s : State) (target : Option Word) (effect : State → Prop) : Prop :=
  ∃ u, effect u ∧ exec i s = .next (u.endStep s.pc target) ∧
    (u.pendSync = false → u.pendExt = false → (u.intPin && u.im) = false →
      exec i s = .next { u with pc := target.getD (s.pc + 4#32) })

/-- What trap entry for a synchronous trap leaves, where `u` is the state the trapping instruction left: the vector, the return
address, the recorded information; PU and PIM take U and IM; U, IM, DIM and DS are 0; the class bit is 1, and IN too if an interrupt is
recognised at this step; every other bit of psr and every other part of the state is `u`'s (R432, R436, R450). -/
def TrapTaken (u : State) (fir : Word) (info : TrapInfo) (t : State) : Prop :=
  t = { u with
    pc := u.params.trapVector, fir := fir, firTrap := true, psr := t.psr, pendSync := false, pendDslot := false, pendExt := false
    trapInfo := info } ∧
  ∀ k, t.psr.getLsbD k =
    if k = 4 ∨ k = 6 ∨ k = 13 ∨ k = 14 then false
    else if k = 5 then u.im
    else if k = 7 then u.user
    else if k = info.cls.bit then true
    else if k = 9 then u.psr.getLsbD 9 || (u.intPin && u.im)
    else u.psr.getLsbD k

/-- The instruction takes a synchronous trap: `u` is the state it left before trap entry. -/
def Traps (i : Instr) (s u : State) (fir : Word) (info : TrapInfo) : Prop :=
  ∃ t, exec i s = .next t ∧ TrapTaken u fir info t

/-! ### Frames: what an effect leaves unchanged -/

/-- A value read from a register: r0 reads as zero whatever is written to it (R21). -/
def asGpr (r : Reg) (v : Word) : Word := if r = 0#5 then 0#32 else v

/-- The same for the floating-point registers f0 and f1 (R26). -/
def asFpr (r : Reg) (v : Word) : Word := if r = 0#5 ∨ r = 1#5 then 0#32 else v

/-- Every general register reads as before. -/
def GprKept (s u : State) : Prop := ∀ q, u.x q = s.x q

/-- Every general register but one reads as before. -/
def GprKeptBut (r : Reg) (s u : State) : Prop := ∀ q, q ≠ r → u.x q = s.x q

/-- The auto-increment: the base register takes the effective address when the instruction asks for it; every other general register
reads as before (R161). -/
def AutoIncremented (inc : Bool) (src2 : Reg) (ea : Word) (s u : State) : Prop :=
  match inc with
  | true => u.x src2 = asGpr src2 ea ∧ GprKeptBut src2 s u
  | false => GprKept s u

/-- The floating-point registers an operand of a precision occupies: one, or an even one and its successor (R24). -/
def occupies (p : Prec) (r : Reg) (q : Reg) : Prop :=
  match p with
  | .single => q = r
  | .double => q = r ∨ q = r + 1#5

/-- The floating-point registers a quad operand occupies (R24). -/
def occupiesQuad (r q : Reg) : Prop := q = r ∨ q = r + 1#5 ∨ q = r + 2#5 ∨ q = r + 3#5

/-- Every floating-point register outside a set reads as before. -/
def FprKeptBut (written : Reg → Prop) (s u : State) : Prop := ∀ q, ¬ written q → u.f q = s.f q

/-- A result of a precision stands in its destination, and no other floating-point register changed (R11, R25, R26). -/
def FpWritten (s : State) (p : Prec) (dest : Reg) (v : Dword) (u : State) : Prop :=
  FprKeptBut (occupies p dest) s u ∧
  match p with
  | .single => u.f dest = asFpr dest (v.extractLsb' 0 32)
  | .double => u.f dest = asFpr dest (v.extractLsb' 0 32) ∧ u.f (dest + 1#5) = asFpr (dest + 1#5) (v.extractLsb' 32 32)

/-- A destination register is aligned for the entry it receives from the last stage of a pipeline; an empty stage asks for no alignment
(R27, R172, R312). -/
def retireFits (e : Option Entry) (dest : Reg) : Bool :=
  match e with
  | some entry => alignedFor entry.prec dest
  | none => true

/-- The entry leaving a pipeline stands in the destination at its own precision; an empty stage leaves any value there, and in the next
register too when the issuing instruction's result precision is double, but f0 and f1 discard it (R312). -/
def Retired (s : State) (e : Option Entry) (r : Prec) (dest : Reg) (u : State) : Prop :=
  match e with
  | some entry => FpWritten s entry.prec dest entry.value u
  | none => FprKeptBut (fun q => hardF dest = false ∧ occupies r dest q) s u

/-- Every bit of psr but a set of them is as before. -/
def PsrKeptBut (changed : Nat → Prop) (s u : State) : Prop := ∀ k, ¬ changed k → u.psr.getLsbD k = s.psr.getLsbD k

/-- Every bit of fsr but a set of them is as before. -/
def FsrKeptBut (changed : Nat → Prop) (s u : State) : Prop := ∀ k, ¬ changed k → u.fsr.getLsbD k = s.fsr.getLsbD k

/-- Every bit of dirbase but a set of them is as before. -/
def DirbaseKeptBut (changed : Nat → Prop) (s u : State) : Prop := ∀ k, ¬ changed k → u.dirbase.getLsbD k = s.dirbase.getLsbD k

/-- Every bit of epsr but a set of them is as before. -/
def EpsrKeptBut (changed : Nat → Prop) (s u : State) : Prop := ∀ k, ¬ changed k → u.epsr.getLsbD k = s.epsr.getLsbD k

/-- Every byte of memory reads as before. -/
def MemoryKept (s u : State) : Prop := ∀ a, u.mem.byteAt a = s.mem.byteAt a

/-- The byte stands in the directory entry or the page-table entry that translates an address, when translation is on: the bytes in
which a successful translation sets the accessed bits (R81, R86). -/
def tableByte (s : State) (va a : Word) : Prop :=
  s.ate = true ∧ ∃ k, k < 4 ∧
    (a = s.pdeAddr va + BitVec.ofNat 32 k ∨
      a = pteAddr (s.mem.word s.params.fetchBigEndian (s.pdeAddr va)) va + BitVec.ofNat 32 k)

/-- Every byte of memory reads as before, but for the accessed bits of the translation of an address. -/
def MemoryKeptButTables (va : Word) (s u : State) : Prop := ∀ a, ¬ tableByte s va a → u.mem.byteAt a = s.mem.byteAt a

/-- Every byte of memory outside `n` bytes from an address reads as before. -/
def MemoryKeptBut (pa : Word) (n : Nat) (s u : State) : Prop :=
  ∀ a, (∀ k, k < n → a ≠ pa + BitVec.ofNat 32 k) → u.mem.byteAt a = s.mem.byteAt a

/-- Every byte of memory outside `n` bytes from a physical address reads as before, but for the accessed bits of the translation of the
virtual address. -/
def MemoryKeptButStore (va pa : Word) (n : Nat) (s u : State) : Prop :=
  ∀ a, ¬ tableByte s va a → (∀ k, k < n → a ≠ pa + BitVec.ofNat 32 k) → u.mem.byteAt a = s.mem.byteAt a

/-- An access of 2^k bytes at a virtual address goes through: aligned, no enabled breakpoint matches, and the translation answers a
physical address and the state with the accessed bits set (R79, R80, R90). -/
def Accessible (k : Nat) (kind : AccessKind) (va : Word) (s : State) (pa : Word) (t : State) : Prop :=
  aligned k va = true ∧ (s.breakEnabled kind && s.breakMatch k va) = false ∧ translate va kind s = .done pa t

/-- The record of a bus read. -/
def readOf (pa : Word) (bytes : Nat) (v : Word) : BusAccess := { write := false, addr := pa, bytes := bytes, value := v }

/-- The record of a bus write. -/
def writeOf (pa : Word) (bytes : Nat) (v : Word) : BusAccess := { write := true, addr := pa, bytes := bytes, value := v }

/-! ### Effects of the integer instructions -/

/-- The effect of an instruction whose result goes to one general register and that may set psr.CC and epsr.OF and nothing else. -/
def IntegerEffect (s : State) (dest : Reg) (result : Word) (u : State) : Prop :=
  u.x dest = asGpr dest result ∧ GprKeptBut dest s u ∧ MemoryKept s u ∧
    u = { s with gpr := u.gpr, psr := u.psr, epsr := u.epsr }

/-- psr.CC is `cc`, and every other bit of psr is as before. -/
def CcIs (cc : Bool) (s u : State) : Prop := u.psr.getLsbD 2 = cc ∧ PsrKeptBut (fun k => k = 2) s u

/-- epsr.OF is `ovf`, and every other bit of epsr is as before. -/
def OfIs (ovf : Bool) (s u : State) : Prop := u.epsr.getLsbD 24 = ovf ∧ EpsrKeptBut (fun k => k = 24) s u

/-- The effect of a load into a general register: the value, the one bus access after those of the translation, nothing else. -/
def GprLoaded (s t : State) (va : Word) (dest : Reg) (v : Word) (access : BusAccess) (u : State) : Prop :=
  u.x dest = asGpr dest v ∧ GprKeptBut dest s u ∧ MemoryKept t u ∧ MemoryKeptButTables va s u ∧
    u = { s with gpr := u.gpr, mem := u.mem, bus := access :: t.bus }

/-- The effect of a store of `n` bytes but for the bytes stored: nothing else changes. -/
def Stored (s t : State) (va pa : Word) (n : Nat) (accesses : List BusAccess) (u : State) : Prop :=
  MemoryKeptBut pa n t u ∧ MemoryKeptButStore va pa n s u ∧
    u = { s with mem := u.mem, bus := accesses ++ t.bus }

/-- The instruction is a control transfer: a branch or a call, trap, lock, unlock or intovr (R241). -/
def TransfersControl (i : Instr) : Prop :=
  (∃ off, i = .br off ∨ i = .call off ∨ i = .bc off ∨ i = .bct off ∨ i = .bnc off ∨ i = .bnct off) ∨
  (∃ src1, i = .bri src1 ∨ i = .calli src1) ∨
  (∃ src1 src2 off, i = .bla src1 src2 off ∨ i = .bteR src1 src2 off ∨ i = .bteI src1 src2 off ∨ i = .btneR src1 src2 off ∨
    i = .btneI src1 src2 off) ∨
  (∃ src1 src2 dest, i = .trap src1 src2 dest) ∨ i = .lock ∨ i = .unlock ∨ i = .intovr

/-- The slot instruction of the branch at the pc of `s` completes and leaves `t`; `link` is true in the slot of call and calli. -/
def SlotCompletes (link : Bool) (s t : State) : Prop :=
  slotRun link { s with pc := s.pc + 4#32 } = .done () t ∧ t.pendSync = false

/-! ### Effects of the floating-point instructions -/

/-- An FP-escape word was suppressed: KNF is cleared and nothing else changed (R133). -/
def SuppressedFrom (s u : State) : Prop :=
  u.knf = false ∧ PsrKeptBut (fun k => k = 15) s u ∧ MemoryKept s u ∧ u = { s with psr := u.psr }

/-- The rounded result of an operation with no exceptional source, after flush-to-zero (R340, R341). -/
def State.checked (s : State) (p : Prec) (x : FVal) : Rounded := flushed p s.fz (roundValue p s.rm s.free x)

/-- No floating-point trap is taken: traps are not enabled, or there is no exceptional source and no trapping result condition
(R341). -/
def FpPasses (s : State) (p : Prec) (se : Bool) (x : FVal) : Prop :=
  s.fte = false ∨ (se = false ∧ resultTraps s.ti (s.checked p x) = false)

/-- The pattern FPCheck returns: with an exceptional source the rounded IEEE result (R341). -/
def fpBits (s : State) (p : Prec) (se : Bool) (x : FVal) : Dword :=
  if se then (roundValue p s.rm s.free x).bits else (s.checked p x).bits

/-- SE and a unit's overflow, underflow and inexact bits have these values, SI is set by an inexact result and never cleared, and every
other bit of fsr is as before (R341). -/
def UnitStatus (unit : FpUnit) (s : State) (se o t i : Bool) (u : State) : Prop :=
  u.fsr.getLsbD 8 = se ∧ u.fsr.getLsbD unit.oBit = o ∧ u.fsr.getLsbD unit.uBit = t ∧ u.fsr.getLsbD unit.iBit = i ∧
    u.fsr.getLsbD 7 = (s.fsr.getLsbD 7 || i) ∧
    FsrKeptBut (fun k => k = 7 ∨ k = 8 ∨ k = unit.oBit ∨ k = unit.uBit ∨ k = unit.iBit) s u

/-- The status FPCheck leaves when it returns: an exceptional source clears the unit's bits (R341). -/
def FpStatus (unit : FpUnit) (s : State) (p : Prec) (se : Bool) (x : FVal) (u : State) : Prop :=
  UnitStatus unit s se (!se && (s.checked p x).overflow) (!se && (s.checked p x).tiny) (!se && (s.checked p x).inexact) u

/-- SE is `se`, and every other bit of fsr is as before. -/
def SeIs (se : Bool) (s u : State) : Prop := u.fsr.getLsbD 8 = se ∧ FsrKeptBut (fun k => k = 8) s u

/-- Only floating-point registers, fsr and the count of free values may differ. -/
def FpFrame (s u : State) : Prop :=
  MemoryKept s u ∧ u = { s with fpr := u.fpr, fsr := u.fsr, freeCount := u.freeCount }

/-- The same, and the adder pipeline is `a`. -/
def AdderFrame (s : State) (a : Pipe) (u : State) : Prop :=
  MemoryKept s u ∧ u = { s with fpr := u.fpr, fsr := u.fsr, adder := a, freeCount := u.freeCount }

/-- The same, and the multiplier pipeline is `m`. -/
def MultiplierFrame (s : State) (m : Pipe) (u : State) : Prop :=
  MemoryKept s u ∧ u = { s with fpr := u.fpr, fsr := u.fsr, multiplier := m, freeCount := u.freeCount }

/-- An FP-escape instruction with this D bit is executed: KNF is clear and DUAL_MODE_POLICY admits it (R122, R133). -/
def Executes (s : State) (d : Bool) : Prop := s.knf = false ∧ s.admits d = true

/-- An FP-escape instruction of two sources is executed and its sources are aligned (R27, R122, R133). -/
def SourcesReady (s : State) (o : Fp3) : Prop :=
  Executes s o.d ∧ alignedFor o.s o.src1 = true ∧ alignedFor o.s o.src2 = true

/-- The value of the first source operand (R14). -/
def value1 (s : State) (o : Fp3) : FVal := fval o.s (s.fr o.s o.src1)

/-- The value of the second source operand (R14). -/
def value2 (s : State) (o : Fp3) : FVal := fval o.s (s.fr o.s o.src2)

/-- Some source operand is a NaN, an infinity or a denormal (R341). -/
def exceptional (s : State) (o : Fp3) : Bool :=
  sourceException o.s (s.fr o.s o.src1) || sourceException o.s (s.fr o.s o.src2)

/-- A finite value as a rational number. -/
def FVal.rat : FVal → Option ℚ
  | .nan => none
  | .inf _ => none
  | .fin neg m e => some ((if neg then -1 else 1) * (m : ℚ) * (2 : ℚ) ^ e)

end Sys2Proof.Machine
end

