-- ==== Sys2Proof/Certificates/Slice0/Obligations.lean ====
section
/-! DEFINITION. The statements about the machine. Each docstring names the rules of spec/ it rests on; where a statement rests on a
choice of the model, it names the entry of notes/assumptions/. -/

open Sys2Proof Sys2Proof.Machine

/-! ### Registers and memory -/

/-- r0, f0 and f1 read as zero and writes to them are discarded (R21, R26). A single-precision write leaves every other slot unchanged; a
double-precision write leaves every slot outside its pair unchanged; a pair that is not f0:f1 reads back exactly what was written, the odd
register the more significant word (R24, R25). -/
def Obligations.RegisterFile : Prop :=
  ∀ s : State,
    (∀ v : Word, s.x 0#5 = 0#32 ∧ s.setX 0#5 v = s ∧
      s.f 0#5 = 0#32 ∧ s.f 1#5 = 0#32 ∧ s.setF 0#5 v = s ∧ s.setF 1#5 v = s ∧ s.fd 0#5 = 0#64) ∧
    ∀ i j : Reg,
      (∀ v : Word, (i ≠ 0#5 → (s.setX i v).x i = v) ∧ (j ≠ i → (s.setX i v).x j = s.x j)) ∧
      (∀ v : Word, (i ≠ 0#5 → i ≠ 1#5 → (s.setF i v).f i = v) ∧ (j ≠ i → (s.setF i v).f j = s.f j)) ∧
      (i.getLsbD 0 = false → ∀ v : Dword,
        (j ≠ i → j ≠ i + 1#5 → (s.setFd i v).f j = s.f j) ∧
        (i ≠ 0#5 → (s.setFd i v).fd i = v ∧ (s.setFd i v).f i = v.extractLsb' 0 32 ∧
          (s.setFd i v).f (i + 1#5) = v.extractLsb' 32 32))

/-- A byte, halfword or word written to memory reads back at the same width and order; its bytes stand in increasing addresses, the
least significant first in little-endian order and last in big-endian order; no other byte changes; and the canonical form is kept
(R71, R75, R76). -/
def Obligations.MemoryReadAfterWrite : Prop :=
  ∀ (m : Memory) (big : Bool) (a v : Word), m.wf = true →
    ((m.setWord big a v).wf = true ∧ (m.setWord big a v).word big a = v ∧
      (∀ k, k < 4 → (m.setWord big a v).byteAt (a + BitVec.ofNat 32 k) =
        v.extractLsb' (8 * (if big then 3 - k else k)) 8) ∧
      ∀ b, (∀ k, k < 4 → b ≠ a + BitVec.ofNat 32 k) → (m.setWord big a v).byteAt b = m.byteAt b) ∧
    (∀ h : BitVec 16, (m.setHalf big a h).wf = true ∧ (m.setHalf big a h).half big a = h ∧
      (∀ k, k < 2 → (m.setHalf big a h).byteAt (a + BitVec.ofNat 32 k) =
        h.extractLsb' (8 * (if big then 1 - k else k)) 8) ∧
      ∀ b, (∀ k, k < 2 → b ≠ a + BitVec.ofNat 32 k) → (m.setHalf big a h).byteAt b = m.byteAt b) ∧
    ∀ b : Byte, (m.setByte a b).wf = true ∧ (m.setByte a b).byteAt a = b ∧
      ∀ c, c ≠ a → (m.setByte a b).byteAt c = m.byteAt c

/-! ### Decoding, and the step -/

/-- Words written out from the spec's encodings decode to their instructions (R125, R126). -/
def Obligations.SampleWords : Prop :=
  decodeWord 0x80430800#32 = .instr (.adduR 1#5 2#5 3#5) ∧
  decodeWord 0xA0000000#32 = .instr (.shlR 0#5 0#5 0#5) ∧
  decodeWord 0x68000003#32 = .instr (.br 3#26) ∧
  decodeWord 0xB4BF27FD#32 = .instr (.bla 4#5 5#5 0xFFFD#16) ∧
  decodeWord 0x38401000#32 = .instr (.stc 2#5 2#5) ∧
  decodeWord 0x48A62049#32 =
    .instr (.fiadd { src1 := 4#5, src2 := 5#5, dest := 6#5, s := .single, r := .single, d := false }) ∧
  decodeWord 0x48A02434#32 = .instr (.pfgt { src1 := 4#5, src2 := 5#5, dest := 0#5, s := .single, d := false }) ∧
  decodeWord 0x18000000#32 = .undefined

/-- Decoding the word an instruction encodes to gives the instruction back, for every instruction with every operand (R110 to R126). -/
def Obligations.DecodeEncode : Prop := ∀ i : Instr, decodeWord (encode i) = .instr i

/-- A form the XR does not define is refused: an instruction with a precision pair it does not accept or a register misaligned for its
operand, one of the core with KNF set too (R27, R129, R358, R385, R400), and a word of a form that no instruction has, which are pfld.q,
pst.d not .d, fmlow, frcp, frsqr and fxfr with P = 1, pfmul3 and the compares with P = 0, fmlow and pfmul3 not .dd (R129). So are an
FP-escape word with D = 1 when DUAL_MODE_POLICY is `refuse` (R122); pst.d, faddp and pfaddp with PS = 3 (R173, R403); a dual operation with
an operand of the other precision (R386); and every pipelined instruction out of whose pipeline a double entry would go to an odd fdest
(R312), unless a trap comes first: a floating-point trap with FTE set, or one of pfld's access. The model's choices among these: that a form
is refused before any trap it could raise, and that psr.KNF suppresses such an FP-escape word instead, notes/assumptions/16.md; that f1 is an
odd fdest for a double entry, where R312 also says that f1 discards its value, notes/assumptions/9.md; that R385 means the registers of a
dual operation aligned at R, notes/assumptions/24.md. -/
def Obligations.IllFormedRefused : Prop :=
  (∀ (i : Instr) (s : State), wellFormed i = false → s.knf = false ∨ (opFlags (encode i)).fp = false → ∃ q, exec i s = .refused q) ∧
  (∀ (s t : State) (w : Word) (form : ReservedForm) (d : Bool), s.held = false → fetch s.pc s = .done w t →
    decodeWord w = .reserved form d → t.knf = false ∨ (opFlags w).fp = false → ∃ q, step s = .refused q) ∧
  (∀ w : Word,
    let primary := w.extractLsb' 26 6
    let size := w.extractLsb' 1 2
    let op := w.extractLsb' 0 7
    let p := w.getLsbD 10
    let dd := w.getLsbD 8 && w.getLsbD 7
    (∃ form d, decodeWord w = .reserved form d) ↔
      (primary = 0x18#6 ∨ primary = 0x19#6) ∧ size = 2#2 ∨ primary = 0x0F#6 ∧ size ≠ 0#2 ∨
      primary = 0x12#6 ∧
        (op = 0x21#7 ∧ (p = true ∨ dd = false) ∨ (op = 0x22#7 ∨ op = 0x23#7 ∨ op = 0x40#7) ∧ p = true ∨
          op = 0x24#7 ∧ (p = false ∨ dd = false) ∨ (op = 0x34#7 ∨ op = 0x35#7) ∧ p = false)) ∧
  (∀ (i : Instr) (s : State), (opFlags (encode i)).fp = true → (encode i).getLsbD 9 = true → s.knf = false →
    s.params.dualModePolicy = .refuse → exec i s = .refused .dualInstructionMode) ∧
  (∀ s : State, s.ps = 3#2 →
    (∀ fdest imm src2 inc, ∃ q, exec (.pstd fdest imm src2 inc) s = .refused q) ∧
    (s.knf = false → ∀ o, (∃ q, exec (.faddp o) s = .refused q) ∧ ∃ q, exec (.pfaddp o) s = .refused q)) ∧
  (∀ (s : State) (dpc : BitVec 4) (o : Fp3), s.knf = false →
    let ops := dualOperands dpc o s
    let other := fun (x : UnitOperand) (need : Prec) => ∃ v p, x = .value v (some p) ∧ p ≠ need
    other ops.m1 o.s ∨ other ops.m2 o.s ∨ other ops.a1 o.r ∨ other ops.a2 o.r →
    ∀ i ∈ [Instr.pfam dpc o, .pfsm dpc o, .pfmam dpc o, .pfmsm dpc o], ∃ q, exec i s = .refused q) ∧
  ∀ s : State,
    let odd := fun (e : Option Entry) (dest : Reg) => (∃ v, e = some { value := v, prec := .double }) ∧ dest.getLsbD 0 = true
    let refused := fun (i : Instr) => ∃ q, exec i s = .refused q
    let traps := fun (i : Instr) => s.fte = true ∧ ∃ t, exec i s = .next t ∧ t.psr.getLsbD 12 = true ∧ t.fpr = s.fpr
    (s.knf = false →
      (∀ o : Fp3,
        (odd s.adder.s3 o.dest → ∀ i ∈ [Instr.pfadd o, .pfsub o, .pfeq o], refused i ∨ traps i) ∧
        (odd (if o.s = .double then s.multiplier.s2 else s.multiplier.s3) o.dest → refused (.pfmul o) ∨ traps (.pfmul o)) ∧
        (odd s.graphics o.dest → ∀ i ∈ [Instr.pfiadd o, .pfisub o, .pfaddp o, .pfaddz o, .pfzchkl o, .pfzchks o], refused i) ∧
        ∀ dpc, (odd s.adder.s3 o.dest → ∀ i ∈ [Instr.pfam dpc o, .pfsm dpc o], refused i ∨ traps i) ∧
          (odd (if o.s = .double then s.multiplier.s2 else s.multiplier.s3) o.dest →
            ∀ i ∈ [Instr.pfmam dpc o, .pfmsm dpc o], refused i ∨ traps i)) ∧
      (∀ o : Fp2,
        (odd s.adder.s3 o.dest → ∀ i ∈ [Instr.pfix o, .pftrunc o, .pfamov o], refused i ∨ traps i) ∧
        (odd s.graphics o.dest → refused (.pform o))) ∧
      (∀ o : FpDd, odd s.multiplier.s3 o.dest → refused (.pfmul3 o) ∨ traps (.pfmul3 o)) ∧
      ∀ o : FpCmp, odd s.adder.s3 o.dest → ∀ i ∈ [Instr.pfgt o, .pfle o], refused i ∨ traps i) ∧
    ∀ (pa : Word) (t : State) (src2 fdest : Reg) (inc : Bool), odd s.loader.s3 fdest →
      (∀ src1, let ea := s.x src1 + s.x src2;
        (Accessible 2 .read ea s pa t → refused (.pfldlR src1 src2 fdest inc)) ∧
        (Accessible 3 .read ea s pa t → refused (.pflddR src1 src2 fdest inc))) ∧
      (∀ imm, Accessible 2 .read (dispFl imm + s.x src2) s pa t → refused (.pfldlI imm src2 fdest inc)) ∧
      ∀ imm, Accessible 3 .read (dispFd imm + s.x src2) s pa t → refused (.pflddI imm src2 fdest inc)

/-- A step runs the decoded instruction: when HOLD and RESET are not asserted and the fetch at pc answers a word that decodes to an
instruction, well formed or not, the step is that instruction's, at the state the fetch left, which holds the fetched word. The fetch from
an aligned pc translates it, for execution, and reads the word at the physical address in the order of the parameter FETCH_BIG_ENDIAN; with
translation off its bytes are those at pc. Where the translation raises the instruction access trap, the step takes that trap at the pc
(R73, R80, R94, R132, R431, R432, R450). -/
def Obligations.StepRunsDecoded : Prop :=
  ∀ (s : State) (i : Instr), s.held = false →
    (∀ w t, fetch s.pc s = .done w t → decodeWord w = .instr i → t.fetched = w ∧ step s = exec i t) ∧
    (s.pc.toNat % 4 = 0 → ∀ pa t, translate s.pc .execute s = .done pa t →
      let w := t.mem.word s.params.fetchBigEndian pa
      let u := { t with bus := readOf pa 4 w :: t.bus, fetched := w }
      fetch s.pc s = .done w u ∧ (decodeWord w = .instr i → step s = exec i u)) ∧
    (s.pc.toNat % 4 = 0 → s.pendDslot = false → ∀ (mem : Memory) (bus : List BusAccess),
      let u := { s with mem := mem, bus := bus }
      translate s.pc .execute s = raise .iat .instructionAccess (.access s.pc .execute) u →
      ∃ t, step s = .next t ∧
        TrapTaken u s.pc { cls := .iat, reason := .instructionAccess, detail := .access s.pc .execute } t) ∧
    (s.ate = false → s.pc.toNat % 4 = 0 →
      decodeBytes s.params.fetchBigEndian
          [s.mem.byteAt s.pc, s.mem.byteAt (s.pc + 1#32), s.mem.byteAt (s.pc + 2#32), s.mem.byteAt (s.pc + 3#32)] =
        some (.instr i, []) →
      let w := s.mem.word s.params.fetchBigEndian s.pc
      step s = exec i { s with bus := readOf s.pc 4 w :: s.bus, fetched := w })

/-- A word with no handler raises the undefined-opcode trap, class IT, before any state but the fetch's is changed (R127, R432). That an
FP-escape word with no handler does so also with D = 1 under DUAL_MODE_POLICY = refuse, where R122 would refuse it, and with psr.KNF set, is
the model's choice, notes/assumptions/16.md. -/
def Obligations.UndefinedOpcodeTraps : Prop :=
  ∀ (s t : State) (w : Word), s.held = false → s.pendDslot = false → fetch s.pc s = .done w t → decodeWord w = .undefined →
    ∃ u, step s = .next u ∧ TrapTaken t s.pc { cls := .it, reason := .undefinedOpcode, detail := .word w } u

/-- A fetch from an address whose bits 1:0 are not zero leaves the core stuck (R95). -/
def Obligations.MisalignedFetchStuck : Prop :=
  ∀ s : State, s.held = false → s.pc.extractLsb' 0 2 ≠ 0#2 → step s = .fault .stuckFetch

/-- While HOLD is asserted a step does nothing; releasing it leaves the pc where it was. The same while RESET is asserted (R464, R473). -/
def Obligations.HoldDoesNothing : Prop :=
  ∀ s : State, (s.holdPin = true → step s = .next s) ∧ (s.resetPin = true → step s = .next s) ∧
    (s.setHold true).holdPin = true ∧ s.assertReset.resetPin = true ∧ ((s.setHold true).setHold false).pc = s.pc

/-! ### Integer arithmetic -/

/-- addu: the sum modulo 2^32; CC and OF are the carry out of bit 31. subu: the difference modulo 2^32; CC says isrc2 is not greater than
the first operand, unsigned, and OF the contrary. Nothing else changes (R200 to R204). -/
def Obligations.UnsignedArithmetic : Prop :=
  ∀ (s : State) (src2 dest : Reg),
    let sum := fun (a : Word) (u : State) =>
      let carry := decide (2 ^ 32 ≤ a.toNat + (s.x src2).toNat)
      IntegerEffect s dest (BitVec.ofNat 32 (a.toNat + (s.x src2).toNat)) u ∧ CcIs carry s u ∧ OfIs carry s u
    let difference := fun (a : Word) (u : State) =>
      IntegerEffect s dest (BitVec.ofInt 32 (a.toInt - (s.x src2).toInt)) u ∧
        CcIs (decide ((s.x src2).toNat ≤ a.toNat)) s u ∧ OfIs (decide (a.toNat < (s.x src2).toNat)) s u
    (∀ src1, Completes (.adduR src1 src2 dest) s none (sum (s.x src1)) ∧
      Completes (.subuR src1 src2 dest) s none (difference (s.x src1))) ∧
    ∀ imm : BitVec 16, Completes (.adduI imm src2 dest) s none (sum (imm.signExtend 32)) ∧
      Completes (.subuI imm src2 dest) s none (difference (imm.signExtend 32))

/-- adds and subs: the sum or the difference modulo 2^32; CC says the true signed sum is negative, or the first operand less than isrc2,
signed; OF says the true sum or difference is outside the signed range. Nothing else changes (R200 to R202, R205, R206). -/
def Obligations.SignedArithmetic : Prop :=
  ∀ (s : State) (src2 dest : Reg),
    let effect := fun (t : Int) (cc : Bool) (u : State) =>
      IntegerEffect s dest (BitVec.ofInt 32 t) u ∧ CcIs cc s u ∧ OfIs (decide (t < -2 ^ 31 ∨ 2 ^ 31 ≤ t)) s u
    let b := (s.x src2).toInt
    let sum := fun a : Word => effect (a.toInt + b) (decide (a.toInt + b < 0))
    let difference := fun a : Word => effect (a.toInt - b) (decide (a.toInt < b))
    (∀ src1, Completes (.addsR src1 src2 dest) s none (sum (s.x src1)) ∧
      Completes (.subsR src1 src2 dest) s none (difference (s.x src1))) ∧
    ∀ imm : BitVec 16, Completes (.addsI imm src2 dest) s none (sum (imm.signExtend 32)) ∧
      Completes (.subsI imm src2 dest) s none (difference (imm.signExtend 32))

/-- A shift by 0 to 31: shl multiplies by a power of two modulo 2^32, shr divides the unsigned value, shra the signed value rounding
down; shr records the low five bits of the count in psr.SC; shrd gives
bits 31:0 of isrc1 ∥ isrc2 shifted right by psr.SC; nothing else changes (R201, R202, R207 to R211). -/
def Obligations.ShiftsInRange : Prop :=
  ∀ (s : State) (src2 dest : Reg),
    let plain := fun (r : Word) (u : State) => IntegerEffect s dest r u ∧ u.psr = s.psr ∧ u.epsr = s.epsr
    let shl := fun (n : Nat) => plain (BitVec.ofNat 32 ((s.x src2).toNat * 2 ^ n))
    let shra := fun (n : Nat) => plain (BitVec.ofInt 32 ((s.x src2).toInt / 2 ^ n))
    let shr := fun (n : Nat) (u : State) =>
      IntegerEffect s dest (BitVec.ofNat 32 ((s.x src2).toNat / 2 ^ n)) u ∧
        u.psr.extractLsb' 17 5 = BitVec.ofNat 5 n ∧ PsrKeptBut (fun k => 17 ≤ k ∧ k ≤ 21) s u ∧ u.epsr = s.epsr
    (∀ src1, (s.x src1).toNat < 32 →
      Completes (.shlR src1 src2 dest) s none (shl (s.x src1).toNat) ∧
      Completes (.shrR src1 src2 dest) s none (shr (s.x src1).toNat) ∧
      Completes (.shraR src1 src2 dest) s none (shra (s.x src1).toNat)) ∧
    (∀ src1, Completes (.shrd src1 src2 dest) s none
      (plain (BitVec.ofNat 32 (((s.x src1).toNat * 2 ^ 32 + (s.x src2).toNat) / 2 ^ (s.psr.extractLsb' 17 5).toNat)))) ∧
    ∀ imm : BitVec 16, imm.toNat < 32 →
      Completes (.shlI imm src2 dest) s none (shl imm.toNat) ∧
      Completes (.shrI imm src2 dest) s none (shr imm.toNat) ∧
      Completes (.shraI imm src2 dest) s none (shra imm.toNat)

/-- A shift by 32 or more completes with some value in dest: SC still takes the low five bits of the count of shr, and nothing but dest
and SC (and the model's count of free values) changes. The value is the model's free value, notes/assumptions/7.md (R207, R209). -/
def Obligations.ShiftsOutOfRange : Prop :=
  ∀ (s : State) (src2 dest : Reg),
    let effect := fun (sc : BitVec 5) (u : State) =>
      (dest = 0#5 → u.x dest = 0#32) ∧ GprKeptBut dest s u ∧ MemoryKept s u ∧
        u.psr.extractLsb' 17 5 = sc ∧ PsrKeptBut (fun k => 17 ≤ k ∧ k ≤ 21) s u ∧
        u = { s with gpr := u.gpr, psr := u.psr, freeCount := u.freeCount }
    (∀ src1, 32 ≤ (s.x src1).toNat →
      Completes (.shlR src1 src2 dest) s none (effect (s.psr.extractLsb' 17 5)) ∧
      Completes (.shrR src1 src2 dest) s none (effect ((s.x src1).extractLsb' 0 5)) ∧
      Completes (.shraR src1 src2 dest) s none (effect (s.psr.extractLsb' 17 5))) ∧
    ∀ imm : BitVec 16, 32 ≤ imm.toNat →
      Completes (.shlI imm src2 dest) s none (effect (s.psr.extractLsb' 17 5)) ∧
      Completes (.shrI imm src2 dest) s none (effect (imm.extractLsb' 0 5)) ∧
      Completes (.shraI imm src2 dest) s none (effect (s.psr.extractLsb' 17 5))

/-- The twelve logical instructions: the result bit by bit; CC says the result is zero, also when dest is r0; OF is unchanged; nothing
else changes (R202, R212 to R220). -/
def Obligations.LogicalResults : Prop :=
  ∀ (s : State) (src2 dest : Reg),
    let effect := fun (op : Bool → Bool → Bool) (a : Word) (u : State) =>
      ∃ r : Word, (∀ k, k < 32 → r.getLsbD k = op (a.getLsbD k) ((s.x src2).getLsbD k)) ∧
        IntegerEffect s dest r u ∧ CcIs (decide (r = 0#32)) s u ∧ u.epsr = s.epsr
    (∀ src1, Completes (.andR src1 src2 dest) s none (effect (fun a b => a && b) (s.x src1)) ∧
      Completes (.andnotR src1 src2 dest) s none (effect (fun a b => !a && b) (s.x src1)) ∧
      Completes (.orR src1 src2 dest) s none (effect (fun a b => a || b) (s.x src1)) ∧
      Completes (.xorR src1 src2 dest) s none (effect (fun a b => a != b) (s.x src1))) ∧
    ∀ imm : BitVec 16,
      Completes (.andI imm src2 dest) s none (effect (fun a b => a && b) (imm.setWidth 32)) ∧
      Completes (.andnotI imm src2 dest) s none (effect (fun a b => !a && b) (imm.setWidth 32)) ∧
      Completes (.orI imm src2 dest) s none (effect (fun a b => a || b) (imm.setWidth 32)) ∧
      Completes (.xorI imm src2 dest) s none (effect (fun a b => a != b) (imm.setWidth 32)) ∧
      Completes (.andh imm src2 dest) s none (effect (fun a b => a && b) (imm.setWidth 32 <<< 16)) ∧
      Completes (.andnoth imm src2 dest) s none (effect (fun a b => !a && b) (imm.setWidth 32 <<< 16)) ∧
      Completes (.orh imm src2 dest) s none (effect (fun a b => a || b) (imm.setWidth 32 <<< 16)) ∧
      Completes (.xorh imm src2 dest) s none (effect (fun a b => a != b) (imm.setWidth 32 <<< 16))

/-! ### Loads and stores -/

/-- The displacements of the immediate forms: the sign-extended 16-bit displacement with the low bits of the access size cleared, and
of flush the low four (R117, R118, R119). -/
def Obligations.Displacements : Prop :=
  (∀ imm : BitVec 16, dispByte imm = imm.signExtend 32) ∧
  (∀ imm : BitVec 15, ∀ size : Bool,
    dispHalf imm = (imm ++ BitVec.ofBool size : BitVec 16).signExtend 32 &&& ~~~1#32 ∧
    dispWord imm = (imm ++ BitVec.ofBool size : BitVec 16).signExtend 32 &&& ~~~3#32 ∧
    dispFlush imm = (imm ++ BitVec.ofBool size : BitVec 16).signExtend 32 &&& ~~~15#32) ∧
  (∀ (imm : BitVec 14) (low : BitVec 2), dispFl imm = (imm ++ low : BitVec 16).signExtend 32 &&& ~~~3#32) ∧
  ∀ (imm : BitVec 13) (low : BitVec 3),
    dispFd imm = (imm ++ low : BitVec 16).signExtend 32 &&& ~~~7#32 ∧
    dispFq imm = (imm ++ low : BitVec 16).signExtend 32 &&& ~~~15#32

/-- An access that goes through: ld.b and ld.s sign-extend what they read, ld.l takes the word, in the data byte order of epsr.BE; only
dest, the accessed bits of the translation and the bus record change (R160, R162 to R165, R72). -/
def Obligations.IntegerLoads : Prop :=
  ∀ (s t : State) (pa : Word) (src2 dest : Reg), s.mem.wf = true →
    let byte := fun ea => GprLoaded s t ea dest ((t.mem.byteAt pa).signExtend 32)
      (readOf pa 1 ((t.mem.byteAt pa).setWidth 32))
    let half := fun ea => GprLoaded s t ea dest ((t.mem.half s.be pa).signExtend 32)
      (readOf pa 2 ((t.mem.half s.be pa).setWidth 32))
    let word := fun ea => GprLoaded s t ea dest (t.mem.word s.be pa) (readOf pa 4 (t.mem.word s.be pa))
    (∀ src1, let ea := s.x src1 + s.x src2;
      (Accessible 0 .read ea s pa t → Completes (.ldbR src1 src2 dest) s none (byte ea)) ∧
      (Accessible 1 .read ea s pa t → Completes (.ldsR src1 src2 dest) s none (half ea)) ∧
      (Accessible 2 .read ea s pa t → Completes (.ldlR src1 src2 dest) s none (word ea))) ∧
    (∀ imm, let ea := dispByte imm + s.x src2;
      Accessible 0 .read ea s pa t → Completes (.ldbI imm src2 dest) s none (byte ea)) ∧
    (∀ imm, let ea := dispHalf imm + s.x src2;
      Accessible 1 .read ea s pa t → Completes (.ldsI imm src2 dest) s none (half ea)) ∧
    ∀ imm, let ea := dispWord imm + s.x src2;
      Accessible 2 .read ea s pa t → Completes (.ldlI imm src2 dest) s none (word ea)

/-- An access that goes through: st.b, st.s and st.l store the low byte, the low halfword and the word of isrc1 at the translated address
in the data byte order; every other byte but the accessed bits of the translation is as before (R160, R166 to R168, R72). -/
def Obligations.IntegerStores : Prop :=
  ∀ (s t : State) (pa : Word) (src1 src2 : Reg), s.mem.wf = true →
    let v := s.x src1
    (∀ imm, let ea := dispByte imm + s.x src2;
      Accessible 0 .write ea s pa t → Completes (.stb src1 imm src2) s none fun u =>
        u.mem.byteAt pa = v.extractLsb' 0 8 ∧ Stored s t ea pa 1 [writeOf pa 1 ((v.extractLsb' 0 8).setWidth 32)] u) ∧
    (∀ imm, let ea := dispHalf imm + s.x src2;
      Accessible 1 .write ea s pa t → Completes (.sts src1 imm src2) s none fun u =>
        u.mem.half s.be pa = v.extractLsb' 0 16 ∧ Stored s t ea pa 2 [writeOf pa 2 ((v.extractLsb' 0 16).setWidth 32)] u) ∧
    ∀ imm, let ea := dispWord imm + s.x src2;
      Accessible 2 .write ea s pa t → Completes (.stl src1 imm src2) s none fun u =>
        u.mem.word s.be pa = v ∧ Stored s t ea pa 4 [writeOf pa 4 v] u

/-- ixfr: a general register goes to a single-precision slot; fxfr, when not suppressed, a slot to a general register; nothing else
changes (R169, R356). -/
def Obligations.RegisterTransfers : Prop :=
  ∀ s : State,
    (∀ src1 fdest, Completes (.ixfr src1 fdest) s none fun u =>
      u.f fdest = asFpr fdest (s.x src1) ∧ FprKeptBut (fun q => q = fdest) s u ∧ MemoryKept s u ∧ u = { s with fpr := u.fpr }) ∧
    ∀ o : FpXfr, Executes s o.d → Completes (.fxfr o) s none fun u =>
      u.x o.dest = asGpr o.dest (s.f o.src) ∧ GprKeptBut o.dest s u ∧ MemoryKept s u ∧ u = { s with gpr := u.gpr }

/-- An access that goes through: fld.l loads a slot; fld.d a pair, the word of bits 31:0 of the 64-bit value in data order into the even
register; fld.q two pairs; one translation, word reads in increasing address order; then the auto-increment; nothing else changes (R74,
R160, R161, R170, R176). -/
def Obligations.FloatingLoads : Prop :=
  ∀ (s t : State) (pa : Word) (src2 fdest : Reg) (inc : Bool), s.mem.wf = true →
    let w := fun k : Nat => t.mem.word s.be (pa + BitVec.ofNat 32 (4 * k))
    let low := fun k : Nat => if s.be then w (k + 1) else w k
    let high := fun k : Nat => if s.be then w k else w (k + 1)
    let read := fun k : Nat => readOf (pa + BitVec.ofNat 32 (4 * k)) 4 (w k)
    let frame := fun (ea : Word) (accesses : List BusAccess) (u : State) =>
      AutoIncremented inc src2 ea s u ∧ MemoryKept t u ∧ MemoryKeptButTables ea s u ∧
        u = { s with gpr := u.gpr, fpr := u.fpr, mem := u.mem, bus := accesses ++ t.bus }
    let single := fun ea u => u.f fdest = asFpr fdest (w 0) ∧ FprKeptBut (fun q => q = fdest) s u ∧ frame ea [read 0] u
    let double := fun ea u => u.f fdest = asFpr fdest (low 0) ∧ u.f (fdest + 1#5) = asFpr (fdest + 1#5) (high 0) ∧
      FprKeptBut (fun q => q = fdest ∨ q = fdest + 1#5) s u ∧ frame ea [read 1, read 0] u
    let quad := fun ea u => u.f fdest = asFpr fdest (low 0) ∧ u.f (fdest + 1#5) = asFpr (fdest + 1#5) (high 0) ∧
      u.f (fdest + 2#5) = low 2 ∧ u.f (fdest + 3#5) = high 2 ∧
      FprKeptBut (occupiesQuad fdest) s u ∧ frame ea [read 3, read 2, read 1, read 0] u
    (∀ src1, let ea := s.x src1 + s.x src2;
      (Accessible 2 .read ea s pa t → Completes (.fldlR src1 src2 fdest inc) s none (single ea)) ∧
      (alignedFor .double fdest = true → Accessible 3 .read ea s pa t →
        Completes (.flddR src1 src2 fdest inc) s none (double ea)) ∧
      (alignedQuad fdest = true → Accessible 4 .read ea s pa t →
        Completes (.fldqR src1 src2 fdest inc) s none (quad ea))) ∧
    (∀ imm, let ea := dispFl imm + s.x src2;
      Accessible 2 .read ea s pa t → Completes (.fldlI imm src2 fdest inc) s none (single ea)) ∧
    ∀ imm,
      (let ea := dispFd imm + s.x src2;
        alignedFor .double fdest = true → Accessible 3 .read ea s pa t →
        Completes (.flddI imm src2 fdest inc) s none (double ea)) ∧
      (let ea := dispFq imm + s.x src2;
        alignedQuad fdest = true → Accessible 4 .read ea s pa t →
        Completes (.fldqI imm src2 fdest inc) s none (quad ea))

/-- An access that goes through: fst.l stores a slot; fst.d a pair, fst.q two pairs, in data order as word writes in increasing address
order after one translation; then the auto-increment; every other byte but the accessed bits of the translation is as before (R74,
R160, R161, R171, R176). -/
def Obligations.FloatingStores : Prop :=
  ∀ (s t : State) (pa : Word) (src2 fdest : Reg) (inc : Bool), s.mem.wf = true →
    let at' := fun k : Nat => pa + BitVec.ofNat 32 (4 * k)
    let first := fun r : Reg => if s.be then s.f (r + 1#5) else s.f r
    let second := fun r : Reg => if s.be then s.f r else s.f (r + 1#5)
    let frame := fun (ea : Word) (n : Nat) (accesses : List BusAccess) (u : State) =>
      AutoIncremented inc src2 ea s u ∧ MemoryKeptBut pa n t u ∧ MemoryKeptButStore ea pa n s u ∧
        u = { s with gpr := u.gpr, mem := u.mem, bus := accesses ++ t.bus }
    let single := fun ea u => u.mem.word s.be pa = s.f fdest ∧ frame ea 4 [writeOf pa 4 (s.f fdest)] u
    let double := fun ea u => u.mem.word s.be (at' 0) = first fdest ∧ u.mem.word s.be (at' 1) = second fdest ∧
      frame ea 8 [writeOf (at' 1) 4 (second fdest), writeOf (at' 0) 4 (first fdest)] u
    let quad := fun ea u => u.mem.word s.be (at' 0) = first fdest ∧ u.mem.word s.be (at' 1) = second fdest ∧
      u.mem.word s.be (at' 2) = first (fdest + 2#5) ∧ u.mem.word s.be (at' 3) = second (fdest + 2#5) ∧
      frame ea 16 [writeOf (at' 3) 4 (second (fdest + 2#5)), writeOf (at' 2) 4 (first (fdest + 2#5)),
        writeOf (at' 1) 4 (second fdest), writeOf (at' 0) 4 (first fdest)] u
    (∀ src1, let ea := s.x src1 + s.x src2;
      (Accessible 2 .write ea s pa t → Completes (.fstlR src1 src2 fdest inc) s none (single ea)) ∧
      (alignedFor .double fdest = true → Accessible 3 .write ea s pa t →
        Completes (.fstdR src1 src2 fdest inc) s none (double ea)) ∧
      (alignedQuad fdest = true → Accessible 4 .write ea s pa t →
        Completes (.fstqR src1 src2 fdest inc) s none (quad ea))) ∧
    (∀ imm, let ea := dispFl imm + s.x src2;
      Accessible 2 .write ea s pa t → Completes (.fstlI imm src2 fdest inc) s none (single ea)) ∧
    ∀ imm,
      (let ea := dispFd imm + s.x src2;
        alignedFor .double fdest = true → Accessible 3 .write ea s pa t →
        Completes (.fstdI imm src2 fdest inc) s none (double ea)) ∧
      (let ea := dispFq imm + s.x src2;
        alignedQuad fdest = true → Accessible 4 .write ea s pa t →
        Completes (.fstqI imm src2 fdest inc) s none (quad ea))

/-- pfld: memory is read at issue and the value enters the load pipeline; fdest receives the entry leaving it, for which it must be aligned
(any value if that stage is empty, whatever register fdest names: the model's free value, notes/assumptions/5.md); then the
auto-increment (R98, R161, R172, R312, R322). -/
def Obligations.PipelinedLoads : Prop :=
  ∀ (s t : State) (pa : Word) (src2 fdest : Reg) (inc : Bool), s.mem.wf = true →
    let w := fun k : Nat => t.mem.word s.be (pa + BitVec.ofNat 32 (4 * k))
    let read := fun k : Nat => readOf (pa + BitVec.ofNat 32 (4 * k)) 4 (w k)
    let effect := fun (ea : Word) (e : Entry) (accesses : List BusAccess) (u : State) =>
      Retired s s.loader.s3 e.prec fdest u ∧ AutoIncremented inc src2 ea s u ∧ MemoryKept t u ∧ MemoryKeptButTables ea s u ∧
        u = { s with
          gpr := u.gpr, fpr := u.fpr, mem := u.mem, bus := accesses ++ t.bus, freeCount := u.freeCount
          loader := { s1 := some e, s2 := s.loader.s1, s3 := s.loader.s2 } }
    let single := fun ea => effect ea { value := (w 0).setWidth 64, prec := .single } [read 0]
    let double := fun ea => effect ea { value := if s.be then w 0 ++ w 1 else w 1 ++ w 0, prec := .double } [read 1, read 0]
    (∀ src1, let ea := s.x src1 + s.x src2;
      (retireFits s.loader.s3 fdest = true → Accessible 2 .read ea s pa t →
        Completes (.pfldlR src1 src2 fdest inc) s none (single ea)) ∧
      (retireFits s.loader.s3 fdest = true → Accessible 3 .read ea s pa t →
        Completes (.pflddR src1 src2 fdest inc) s none (double ea))) ∧
    (∀ imm, let ea := dispFl imm + s.x src2;
      retireFits s.loader.s3 fdest = true → Accessible 2 .read ea s pa t →
        Completes (.pfldlI imm src2 fdest inc) s none (single ea)) ∧
    ∀ imm, let ea := dispFd imm + s.x src2;
      retireFits s.loader.s3 fdest = true → Accessible 3 .read ea s pa t →
        Completes (.pflddI imm src2 fdest inc) s none (double ea)

/-- pst.d: of the eight bytes at the address those of the pixels whose mask bit is 1 take the bytes of fdest, so that memory is what an
fst.d leaves with the other pixels' bytes kept; PM shifts right by the number of pixels; then the auto-increment; nothing else changes
(R160, R161, R173). The bus record gains one write for each selected pixel, in increasing pixel order, with the pixel's value at its place.
That the address is translated once, and that the pixel order stands in big-endian order too, where R175 says increasing addresses, is the
model's reading, notes/assumptions/8.md. -/
def Obligations.PixelStore : Prop :=
  ∀ (s t : State) (pa : Word) (fdest : Reg) (imm : BitVec 13) (src2 : Reg) (inc : Bool) (w : Nat),
    let ea := dispFd imm + s.x src2;
    s.mem.wf = true → alignedFor .double fdest = true →
    (s.ps = 0#2 ∧ w = 1 ∨ s.ps = 1#2 ∧ w = 2 ∨ s.ps = 2#2 ∧ w = 4) → Accessible 3 .write ea s pa t →
    Completes (.pstd fdest imm src2 inc) s none fun u =>
      (∀ j, j < 8 →
        let k := if s.be then 7 - j else j
        u.mem.byteAt (pa + BitVec.ofNat 32 j) =
          if s.pm.getLsbD (k / w) then (s.fd fdest).extractLsb' (8 * k) 8 else t.mem.byteAt (pa + BitVec.ofNat 32 j)) ∧
      MemoryKeptBut pa 8 t u ∧ MemoryKeptButStore ea pa 8 s u ∧
      u.psr.extractLsb' 24 8 = s.pm >>> (8 / w) ∧ PsrKeptBut (fun k => 24 ≤ k) s u ∧ AutoIncremented inc src2 ea s u ∧
      let written := fun i : Nat =>
        writeOf (pa + BitVec.ofNat 32 (if s.be then 8 - (i + 1) * w else i * w)) w
          (BitVec.ofNat 32 ((s.fd fdest).toNat / 2 ^ (8 * w * i) % 2 ^ (8 * w)))
      u = { s with
        gpr := u.gpr, psr := u.psr, mem := u.mem
        bus := (((List.range (8 / w)).filter fun i => s.pm.getLsbD i).map written).reverse ++ t.bus }

/-- flush makes no bus access: it does the auto-increment, and then a register named by the dest field, other than r0, takes any value;
nothing else changes (R118, R160, R161, R174). That the write of R174's pseudocode happens, where R130 would execute a field that is no
operand as zero, is the model's reading, notes/assumptions/19.md; the value is a free one, notes/assumptions/5.md. -/
def Obligations.FlushEffect : Prop :=
  ∀ (s : State) (imm : BitVec 15) (src2 dest : Reg) (inc : Bool), Completes (.flush imm src2 dest inc) s none fun u =>
    (dest = 0#5 → AutoIncremented inc src2 (dispFlush imm + s.x src2) s u) ∧
    (inc = true → src2 ≠ dest → u.x src2 = asGpr src2 (dispFlush imm + s.x src2)) ∧
    (∀ q, q ≠ dest → (inc = true → q ≠ src2) → u.x q = s.x q) ∧ u.x 0#5 = 0#32 ∧ MemoryKept s u ∧
    u = { s with gpr := u.gpr, freeCount := s.freeCount + if dest = 0#5 then 0 else 1 }

/-! ### Control registers and system instructions -/

/-- ld.c: dest takes the control register's current value with reserved fields 0; a read of fir answers the trap address once, and from
then on the reading instruction's own address; nothing else changes (R29, R280, R281). -/
def Obligations.LoadControl : Prop :=
  ∀ (s : State) (dest : Reg),
    let reads := fun (v : Word) (u : State) =>
      u.x dest = asGpr dest v ∧ GprKeptBut dest s u ∧ MemoryKept s u ∧ u = { s with gpr := u.gpr }
    (Completes (.ldc 0#5 dest) s none fun u =>
      u.x dest = asGpr dest (if s.firTrap then s.fir else s.pc) ∧ GprKeptBut dest s u ∧ MemoryKept s u ∧
        u = { s with gpr := u.gpr, fir := if s.firTrap then s.fir else s.pc, firTrap := false }) ∧
    Completes (.ldc 1#5 dest) s none (reads (s.psr &&& 0xFFFEFFFF#32)) ∧
    Completes (.ldc 2#5 dest) s none (reads (s.dirbase &&& 0xFFFFFF9F#32)) ∧
    Completes (.ldc 3#5 dest) s none (reads s.db) ∧
    Completes (.ldc 4#5 dest) s none (reads s.readFsr) ∧
    Completes (.ldc 5#5 dest) s none (reads s.readEpsr)

/-- What a read of fsr and of epsr answers: the stored fields, the reserved bits 0, the four precision bits from the pipelines' last
stages, which st.c does not write; the type, stepping and cache-size fields of the parameters and the level of the INT pin (R33,
R34, R318, R440). -/
def Obligations.StatusViews : Prop :=
  ∀ s : State,
    (∀ k, k < 25 → k ≠ 6 → s.readFsr.getLsbD k = s.fsr.getLsbD k) ∧
    (∀ k, k = 6 ∨ k = 25 ∨ k = 26 ∨ 31 ≤ k → s.readFsr.getLsbD k = false) ∧
    s.readFsr.getLsbD 30 = doubleEntry s.adder.s3 ∧
    s.readFsr.getLsbD 29 = (doubleEntry s.multiplier.s3 || (s.multiplier.s3.isNone && doubleEntry s.multiplier.s2)) ∧
    s.readFsr.getLsbD 28 = doubleEntry s.graphics ∧ s.readFsr.getLsbD 27 = doubleEntry s.loader.s3 ∧
    s.readEpsr.extractLsb' 0 8 = s.params.epsrProcType ∧ s.readEpsr.extractLsb' 8 5 = s.params.epsrStepping ∧
    s.readEpsr.extractLsb' 18 4 = s.params.epsrDcs ∧ s.readEpsr.getLsbD 17 = s.intPin ∧
    (∀ k, k = 13 ∨ k = 14 ∨ k = 23 ∨ k = 24 → s.readEpsr.getLsbD k = s.epsr.getLsbD k) ∧
    (∀ k, k = 15 ∨ k = 16 ∨ k = 22 ∨ 25 ≤ k → s.readEpsr.getLsbD k = false) ∧
    ∀ v u, s.writeControl 4#5 v = some u → ∀ k, 27 ≤ k → u.readFsr.getLsbD k = s.readFsr.getLsbD k

/-- st.c: every field of the control register that the current mode may write takes the bits of isrc1, every other keeps its value; a
write of fir, and in user mode of dirbase, db and epsr, is discarded; nothing else changes (R30 to R36, R282, R285). -/
def Obligations.StoreControl : Prop :=
  ∀ (s : State) (src1 : Reg),
    let v := s.x src1
    let kept := fun (u : State) => MemoryKept s u ∧ GprKept s u
    (Completes (.stc src1 0#5) s none fun u => u = s ∧ kept u) ∧
    (Completes (.stc src1 1#5) s none fun u =>
      (∀ k, k < 32 → u.psr.getLsbD k =
        if k = 2 ∨ k = 3 ∨ 17 ≤ k ∨ (s.user = false ∧ k ≠ 16 ∧ ¬(8 ≤ k ∧ k ≤ 12)) then v.getLsbD k else s.psr.getLsbD k) ∧
      kept u ∧ u = { s with psr := u.psr }) ∧
    (Completes (.stc src1 2#5) s none fun u =>
      (∀ k, k < 32 → u.dirbase.getLsbD k = if s.user = false ∧ k ≠ 5 ∧ k ≠ 6 then v.getLsbD k else s.dirbase.getLsbD k) ∧
      kept u ∧ u = { s with dirbase := u.dirbase }) ∧
    (Completes (.stc src1 3#5) s none fun u =>
      u.db = (if s.user then s.db else v) ∧ kept u ∧ u = { s with db := u.db }) ∧
    (Completes (.stc src1 4#5) s none fun u =>
      (∀ k, k < 32 → u.fsr.getLsbD k = if k ≠ 6 ∧ k < 25 then v.getLsbD k else s.fsr.getLsbD k) ∧
      kept u ∧ u = { s with fsr := u.fsr }) ∧
    (Completes (.stc src1 5#5) s none fun u =>
      (∀ k, k < 32 → u.epsr.getLsbD k =
        if s.user = false ∧ (k = 13 ∨ k = 14 ∨ k = 23 ∨ k = 24) then v.getLsbD k else s.epsr.getLsbD k) ∧
      kept u ∧ u = { s with epsr := u.epsr })

/-- Writing 1 to dirbase.ITI changes no state beyond what the same write with 0 there does, and ITI reads 0 (R284). -/
def Obligations.InvalidateBit : Prop :=
  ∀ (s : State) (v : Word),
    s.writeControl 2#5 (v ||| 0x20#32) = s.writeControl 2#5 (v &&& ~~~0x20#32) ∧ s.readDirbase.getLsbD 5 = false

/-- A ld.c or st.c whose csrc2 field is 6 to 31 raises the undefined-opcode trap, class IT, before any effect, and the trap records the
fetched word (R283, R431); in the slot of call and calli too, when it names r1 (R129, R435). That the fetched word stands in the field
`fetched` of State is how the model keeps it, notes/assumptions/13.md. -/
def Obligations.NoSuchControlRegister : Prop :=
  ∀ (s : State) (csrc2 r : Reg), 6 ≤ csrc2.toNat → s.pendDslot = false →
    Traps (.ldc csrc2 r) s s s.pc { cls := .it, reason := .undefinedOpcode, detail := .word s.fetched } ∧
    Traps (.stc r csrc2) s s s.pc { cls := .it, reason := .undefinedOpcode, detail := .word s.fetched } ∧
    ∀ (t : State) (w : Word), fetch s.pc s = .done w t → decodeWord w = .instr (.ldc csrc2 r) ∨ decodeWord w = .instr (.stc r csrc2) →
      slotRun true s = raise .it .undefinedOpcode (.word w) t

/-- trap takes the instruction trap, class IT, at its own address, and records the fetched word (R431), which the model keeps in the field
`fetched` of State (notes/assumptions/13.md); intovr takes it when OF is set and has no effect when OF is clear; lock sets dirbase.BL
and unlock clears it, and nothing else changes (R286 to R289). -/
def Obligations.SystemInstructions : Prop :=
  ∀ s : State,
    (s.pendDslot = false → ∀ src1 src2 dest,
      Traps (.trap src1 src2 dest) s s s.pc
        { cls := .it, reason := .trapInstruction, detail := .word s.fetched }) ∧
    (s.ovf = true → s.pendDslot = false → Traps .intovr s s s.pc { cls := .it, reason := .integerOverflow, detail := .nothing }) ∧
    (s.ovf = false → Completes .intovr s none fun u => u = s) ∧
    (Completes .lock s none fun u =>
      u.dirbase.getLsbD 4 = true ∧ DirbaseKeptBut (fun k => k = 4) s u ∧ MemoryKept s u ∧ u = { s with dirbase := u.dirbase }) ∧
    (Completes .unlock s none fun u =>
      u.dirbase.getLsbD 4 = false ∧ DirbaseKeptBut (fun k => k = 4) s u ∧ MemoryKept s u ∧ u = { s with dirbase := u.dirbase })

/-! ### Control transfer -/

/-- The branches without a delay slot: bc and bnc on CC, bte and btne on equality (the 5-bit constant zero-extended); the target is
B + 4 plus the sign-extended offset in words; nothing but the pc changes (R115, R116, R240, R247, R251). -/
def Obligations.PlainBranches : Prop :=
  ∀ s : State,
    let goes := fun (taken : Bool) (offset : Word) => if taken then some (s.pc + 4#32 + offset * 4#32) else none
    let same := fun u : State => u = s
    (∀ off : BitVec 26, Completes (.bc off) s (goes s.cc (off.signExtend 32)) same ∧
      Completes (.bnc off) s (goes (!s.cc) (off.signExtend 32)) same) ∧
    ∀ (src2 : Reg) (off : BitVec 16),
      (∀ src1, Completes (.bteR src1 src2 off) s (goes (decide (s.x src1 = s.x src2)) (off.signExtend 32)) same ∧
        Completes (.btneR src1 src2 off) s (goes (decide (s.x src1 ≠ s.x src2)) (off.signExtend 32)) same) ∧
      ∀ c : BitVec 5, Completes (.bteI c src2 off) s (goes (decide (c.toNat = (s.x src2).toNat)) (off.signExtend 32)) same ∧
        Completes (.btneI c src2 off) s (goes (decide (c.toNat ≠ (s.x src2).toNat)) (off.signExtend 32)) same

/-- br, call, calli, bc.t and bnc.t. With a slot instruction that completes it is executed inside the step, for call and calli at the state
with the link already written (r1 = B + 8), and then control goes to the target, which calli reads before the link is written; nothing
else changes. bc.t and bnc.t not taken skip the slot, and nothing but the pc changes (R116, R240, R241, R243, R245, R246, R248,
R252). -/
def Obligations.DelayedBranches : Prop :=
  ∀ s t : State,
    let after := fun u : State => u = { t with pc := s.pc }
    (∀ off : BitVec 26,
      let target := s.pc + 4#32 + off.signExtend 32 * 4#32
      (SlotCompletes false s t →
        Completes (.br off) s (some target) after ∧
        (s.cc = true → Completes (.bct off) s (some target) after) ∧
        (s.cc = false → Completes (.bnct off) s (some target) after)) ∧
      (SlotCompletes true (s.setX 1#5 (s.pc + 8#32)) t → Completes (.call off) s (some target) after) ∧
      (s.cc = false → Completes (.bct off) s (some (s.pc + 8#32)) fun u => u = s) ∧
      (s.cc = true → Completes (.bnct off) s (some (s.pc + 8#32)) fun u => u = s)) ∧
    ∀ src1, SlotCompletes true (s.setX 1#5 (s.pc + 8#32)) t → Completes (.calli src1) s (some (s.x src1)) after

/-- bla: isrc2 takes isrc1 + isrc2 and LCC the sign test of the true sum before the slot instruction is executed; the LCC from before
decides between the target and B + 8 (R116, R241, R249). -/
def Obligations.BranchOnLcc : Prop :=
  ∀ (s t : State) (src1 src2 : Reg) (off : BitVec 16),
    SlotCompletes false
      ((s.setX src2 (s.x src1 + s.x src2)).setLCC (decide (0 ≤ (s.x src1).toInt + (s.x src2).toInt))) t →
    Completes (.bla src1 src2 off) s
      (some (if s.lcc then s.pc + 4#32 + off.signExtend 32 * 4#32 else s.pc + 8#32)) fun u => u = { t with pc := s.pc }

/-- bri: control goes to the register's value from before the slot; if a trap bit is set after the slot instruction, U and IM take PU and
PIM and the five trap bits are cleared, every other bit of psr staying; with no trap bit set psr is the slot's (R241, R250, R455). That
this holds in user mode too, so that a bri there with a trap bit set and PU = 0 enters supervisor mode, is the model's choice of R250 over
R460, notes/assumptions/21.md. -/
def Obligations.IndirectBranchAndTrapReturn : Prop :=
  ∀ (s t : State) (src1 : Reg), SlotCompletes false s t →
    Completes (.bri src1) s (some (s.x src1)) fun u =>
      u = { t with pc := s.pc, psr := u.psr } ∧
      (t.psr.extractLsb' 8 5 = 0#5 → u.psr = t.psr) ∧
      (t.psr.extractLsb' 8 5 ≠ 0#5 → ∀ k, u.psr.getLsbD k =
        if k = 6 then t.pu else if k = 4 then t.pim else if 8 ≤ k ∧ k ≤ 12 then false else t.psr.getLsbD k)

/-- The slot instruction has the rule it has outside a slot: what exec does with an instruction that is no control transfer is the end of a
step after its rule, and a slot runs the rule of the instruction fetched at its address. A control transfer there is refused, and in the
slot of call and calli an instruction that reads or writes r1, which is one that names r1 as a source, a base or a destination (R241,
R244). An undefined opcode raises its trap there, a form R129 refuses is refused, and a fetch that traps or is misaligned does so as in any
step (R94, R95). That psr.KNF suppresses fxfr to r1 and a refused
FP-escape form before either refusal, and that an FP-escape word with no handler traps also with D = 1 under DUAL_MODE_POLICY = refuse and
with KNF set, is the model's reading, notes/assumptions/16.md; that the dest
field of flush names a register it writes is notes/assumptions/19.md. -/
def Obligations.SlotRunsSameRule : Prop :=
  (∀ (i : Instr) (s : State), ¬ TransfersControl i → exec i s = finish s.pc (slotBody i s)) ∧
  (∀ (i : Instr) (s : State), TransfersControl i → slotBody i s = .refused .controlTransferInSlot ∧ usesLink i = false) ∧
  (∀ (link : Bool) (s t : State) (w : Word), fetch s.pc s = .done w t →
    let suppressed := (opFlags w).fp && t.knf
    (∀ i, decodeWord w = .instr i →
      slotRun link s = if link && usesLink i && !suppressed then .refused .linkRegisterInCallSlot else slotBody i t) ∧
    (decodeWord w = .undefined → slotRun link s = raise .it .undefinedOpcode (.word w) t) ∧
    ∀ form d, decodeWord w = .reserved form d →
      if suppressed then ∃ u, slotRun link s = .done () u ∧ SuppressedFrom t u else ∃ q, slotRun link s = .refused q) ∧
  (∀ (link : Bool) (s u : State),
    (s.pc.toNat % 4 = 0 → translate s.pc .execute s = raise .iat .instructionAccess (.access s.pc .execute) u →
      slotRun link s = raise .iat .instructionAccess (.access s.pc .execute) u) ∧
    (s.pc.toNat % 4 ≠ 0 → slotRun link s = .faulted .stuckFetch)) ∧
  (∀ (a b c : Reg) (inc : Bool),
    (∀ i ∈ [Instr.ldbR a b c, .ldsR a b c, .ldlR a b c, .adduR a b c, .subuR a b c, .addsR a b c, .subsR a b c, .shlR a b c,
        .shrR a b c, .shraR a b c, .shrd a b c, .andR a b c, .andnotR a b c, .orR a b c, .xorR a b c],
      usesLink i = true ↔ a = 1#5 ∨ b = 1#5 ∨ c = 1#5) ∧
    (∀ (h : BitVec 16) (k : BitVec 15), ∀ i ∈ [Instr.ldbI h b c, .ldsI k b c, .ldlI k b c, .adduI h b c, .subuI h b c,
        .addsI h b c, .subsI h b c, .shlI h b c, .shrI h b c, .shraI h b c, .andI h b c, .andnotI h b c, .orI h b c, .xorI h b c,
        .andh h b c, .andnoth h b c, .orh h b c, .xorh h b c],
      usesLink i = true ↔ b = 1#5 ∨ c = 1#5) ∧
    (∀ (h : BitVec 16) (k : BitVec 15), ∀ i ∈ [Instr.stb a h b, .sts a k b, .stl a k b, .fldlR a b c inc, .flddR a b c inc,
        .fldqR a b c inc, .fstlR a b c inc, .fstdR a b c inc, .fstqR a b c inc, .pfldlR a b c inc, .pflddR a b c inc],
      usesLink i = true ↔ a = 1#5 ∨ b = 1#5) ∧
    (∀ (h : BitVec 14) (k : BitVec 13), ∀ i ∈ [Instr.fldlI h b c inc, .flddI k b c inc, .fldqI k b c inc, .fstlI h b c inc,
        .fstdI k b c inc, .fstqI k b c inc, .pfldlI h b c inc, .pflddI k b c inc, .pstd c k b inc],
      usesLink i = true ↔ b = 1#5) ∧
    (∀ k, usesLink (.flush k b c inc) = true ↔ b = 1#5 ∨ c = 1#5) ∧
    (usesLink (.ixfr a c) = true ↔ a = 1#5) ∧
    (usesLink (.ldc a c) = true ↔ a.toNat < 6 ∧ c = 1#5) ∧ (usesLink (.stc c a) = true ↔ a.toNat < 6 ∧ c = 1#5)) ∧
  (∀ o : FpXfr, usesLink (.fxfr o) = true ↔ o.dest = 1#5) ∧
  ∀ i : Instr, (opFlags (encode i)).fp = true → (∀ o, i ≠ .fxfr o) → usesLink i = false

/-- A slot instruction that traps: one trap entry with fir at the slot's address and the trap the slot raised, at the state the slot
instruction left, the branch's own earlier effects (the link of call and calli, isrc2 and LCC of bla) committed before the slot, the
target kept only in the latch, and the vector taken at the end of the step. The same for all seven delayed branches; psr is as at any
trap entry (R241, R242, R432, R450, R452). -/
def Obligations.SlotTrap : Prop :=
  ∀ (s t : State) (c : TrapClass) (reason : TrapReason) (detail : TrapDetail),
    let traps := fun (i : Instr) (link : Bool) (before : State) (target : Word) =>
      slotRun link { before with pc := s.pc + 4#32 } = raise c reason detail t →
      ∃ u, exec i s = .next u ∧
        TrapTaken { t with dslotTarget := target } (s.pc + 4#32) { cls := c, reason := reason, detail := detail } u
    let linked := s.setX 1#5 (s.pc + 8#32)
    (∀ off : BitVec 26,
      let target := s.pc + 4#32 + off.signExtend 32 * 4#32
      traps (.br off) false s target ∧ traps (.call off) true linked target ∧
        (s.cc = true → traps (.bct off) false s target) ∧ (s.cc = false → traps (.bnct off) false s target)) ∧
    ∀ (src1 src2 : Reg) (off : BitVec 16),
      traps (.bri src1) false s (s.x src1) ∧ traps (.calli src1) true linked (s.x src1) ∧
        traps (.bla src1 src2 off) false
          ((s.setX src2 (s.x src1 + s.x src2)).setLCC (decide (0 ≤ (s.x src1).toInt + (s.x src2).toInt)))
          (if s.lcc then s.pc + 4#32 + off.signExtend 32 * 4#32 else s.pc + 8#32)

/-! ### Floating point -/

/-- Rounding. To a multiple of a unit, with m the magnitude in smaller units and 2^k of them to the unit: toward zero truncates; toward −∞
and +∞ truncate or go to the next multiple by the sign; to nearest takes the nearer, on a tie the even one; and the result is marked
inexact exactly when it is not the value (R340). To a precision: the unit is that of the last place of the value, or of the least normal
value below it; a result of n units overflows when it exceeds the largest finite value, and is then the infinity, or the largest finite
value where the direction leads away from that infinity; otherwise the pattern has the value of the n units and the sign; a value that
has a pattern comes back as that pattern; a NaN and an infinity stay so; a flushed result is a zero of the sign (R341). Overflow and
tininess are read as notes/assumptions/15.md says. -/
def Obligations.RoundingDirections : Prop :=
  (∀ (neg : Bool) (m k : Nat) (e : Int),
    let round := fun rm => (roundUnits rm neg m e (e + k)).1
    let value := fun rm => round rm * 2 ^ k
    (round .zero = m / 2 ^ k) ∧
    (if neg then m ≤ value .down ∧ value .down < m + 2 ^ k else value .down ≤ m ∧ m < value .down + 2 ^ k) ∧
    (if neg then value .up ≤ m ∧ m < value .up + 2 ^ k else m ≤ value .up ∧ value .up < m + 2 ^ k) ∧
    2 * value .nearest ≤ 2 * m + 2 ^ k ∧ 2 * m ≤ 2 * value .nearest + 2 ^ k ∧
    (2 * value .nearest = 2 * m + 2 ^ k ∨ 2 * m = 2 * value .nearest + 2 ^ k → round .nearest % 2 = 0) ∧
    ∀ rm, ((roundUnits rm neg m e (e + k)).2 = true ↔ value rm ≠ m) ∧ roundUnits rm neg m e (e - k) = (m * 2 ^ k, false)) ∧
  (∀ (p : Prec) (rm : RMode) (neg : Bool) (m : Nat) (e lead : Int), (2 : ℚ) ^ lead ≤ m * 2 ^ e → (m : ℚ) * 2 ^ e < 2 ^ (lead + 1) →
    let r := roundFinite p rm neg m e
    let unit : Int := max lead (1 - expBias p) - (sigBits p - 1 : Nat)
    let n := (roundUnits rm neg m e unit).1
    let sign : ℚ := if neg then -1 else 1
    let largest : ℚ := (2 ^ sigBits p - 1) * 2 ^ ((expBias p : Int) - (sigBits p - 1 : Nat))
    signOf p r.bits = neg ∧
      (r.overflow = true ↔ largest < n * 2 ^ unit) ∧ (r.tiny = true ↔ (m : ℚ) * 2 ^ e < 2 ^ (1 - expBias p : Int)) ∧
      (r.inexact = true ↔ r.overflow = true ∨ (n : ℚ) * 2 ^ unit ≠ m * 2 ^ e) ∧
      (r.overflow = false → (fval p r.bits).rat = some (sign * n * 2 ^ unit)) ∧
      (r.overflow = true →
        if rm = .nearest ∨ rm = (if neg then .down else .up) then fval p r.bits = .inf neg
        else (fval p r.bits).rat = some (sign * largest))) ∧
  ∀ (p : Prec) (rm : RMode) (free : Dword),
    (∀ v neg m e, fval p v = .fin neg m e →
      roundFinite p rm neg m e =
        { bits := (entryOf p v).value, overflow := false, tiny := expField p v == 0 && fracField p v != 0, inexact := false }) ∧
    (∀ neg e, (fval p (roundFinite p rm neg 0 e).bits).rat = some 0 ∧ signOf p (roundFinite p rm neg 0 e).bits = neg ∧
      (roundFinite p rm neg 0 e).tiny = false) ∧
    (∀ neg m e, roundValue p rm free (.fin neg m e) = roundFinite p rm neg m e) ∧
    fval p (roundValue p rm free .nan).bits = .nan ∧ resultTraps true (roundValue p rm free .nan) = false ∧
    (∀ neg, fval p (roundValue p rm free (.inf neg)).bits = .inf neg ∧ resultTraps true (roundValue p rm free (.inf neg)) = false) ∧
    ∀ r : Rounded,
      (r.tiny = true → (fval p (flushed p true r).bits).rat = some 0 ∧ signOf p (flushed p true r).bits = signOf p r.bits ∧
        flushed p true r = { r with bits := (flushed p true r).bits, inexact := true }) ∧
      (r.tiny = false → flushed p true r = r) ∧ flushed p false r = r

/-- The sum, the difference and the product of finite values are exact, and comparison of finite values is comparison of the numbers they
stand for. An exact zero sum or difference has the sign of both addends where they agree, and else is +0, toward minus infinity −0; a
product has the exclusive or of the signs. With a NaN a result is a NaN and a comparison false. An infinity added to a finite value or to
its like stays, infinity less infinity and infinity times zero are NaN, any other product with an infinity is the infinity of the product's
sign; −∞ is below and +∞ above every other value, and an infinity equals only itself (R340, R341, R343 to R345, R353 to R355; IEEE 754). -/
def Obligations.ExactArithmetic : Prop :=
  (∀ (rm : RMode) (a b : FVal) (x y : ℚ), a.rat = some x → b.rat = some y →
    (exactAdd rm a b).rat = some (x + y) ∧ (exactSub rm a b).rat = some (x - y) ∧ (exactMul a b).rat = some (x * y) ∧
      (fLess a b = true ↔ x < y) ∧ (fEqual a b = true ↔ x = y)) ∧
  (∀ (rm : RMode) (na nb : Bool) (ma mb : Nat) (ea eb : Int),
    let a := FVal.fin na ma ea
    let b := FVal.fin nb mb eb
    let zero := fun (neg : Bool) (v : FVal) => ∃ e, v = .fin neg 0 e
    ((exactAdd rm a b).rat = some 0 → zero (if na = nb then na else decide (rm = .down)) (exactAdd rm a b)) ∧
    ((exactSub rm a b).rat = some 0 → zero (if na ≠ nb then na else decide (rm = .down)) (exactSub rm a b)) ∧
    (∃ m e, exactMul a b = .fin (na != nb) m e) ∧
    (∀ i : Bool, exactAdd rm (.inf i) b = .inf i ∧ exactAdd rm a (.inf i) = .inf i ∧ exactSub rm (.inf i) b = .inf i ∧
      exactSub rm a (.inf i) = .inf (!i) ∧ exactMul (.inf i) b = (if mb = 0 then .nan else .inf (i != nb)) ∧
      exactMul a (.inf i) = (if ma = 0 then .nan else .inf (na != i)) ∧
      fLess (.inf i) b = i ∧ fLess a (.inf i) = !i ∧ fEqual (.inf i) b = false ∧ fEqual a (.inf i) = false)) ∧
  (∀ (rm : RMode) (i j : Bool),
    exactAdd rm (.inf i) (.inf j) = (if i = j then .inf i else .nan) ∧
    exactSub rm (.inf i) (.inf j) = (if i = j then .nan else .inf i) ∧ exactMul (.inf i) (.inf j) = .inf (i != j) ∧
    fLess (.inf i) (.inf j) = (i && !j) ∧ fEqual (.inf i) (.inf j) = (i == j)) ∧
  ∀ (rm : RMode) (v w : FVal), v = .nan ∨ w = .nan →
    exactAdd rm v w = .nan ∧ exactSub rm v w = .nan ∧ exactMul v w = .nan ∧ fLess v w = false ∧ fEqual v w = false

/-- FPCheck: SE is recorded first; an exceptional source traps when FTE is set, and otherwise clears the unit's bits and gives the IEEE
result; with no exceptional source the result conditions are recorded, SI sticking, and an overflow, an underflow or with TI an
inexact result traps when FTE is set. Nothing but fsr (and the model's count of free values) changes (R341). A NaN result is a free value,
notes/assumptions/11.md; overflow and tininess are read as notes/assumptions/15.md says. -/
def Obligations.FpCheckStatusAndTraps : Prop :=
  ∀ (unit : FpUnit) (x : FVal) (p : Prec) (s : State),
    let r := s.checked p x
    let frame := fun u : State => u = { s with fsr := u.fsr, freeCount := u.freeCount }
    (s.fte = true → ∃ u, SeIs true s u ∧ frame u ∧ fpCheck unit x p true s = raise .ft .fpSource .nothing u) ∧
    (s.fte = false → ∃ u, UnitStatus unit s true false false false u ∧ frame u ∧
      fpCheck unit x p true s = .done (roundValue p s.rm s.free x).bits u) ∧
    (s.fte = true → (r.overflow || r.tiny || (r.inexact && s.ti)) = true →
      ∃ u, UnitStatus unit s false r.overflow r.tiny r.inexact u ∧ frame u ∧
        fpCheck unit x p false s = raise .ft .fpResult .nothing u) ∧
    ((s.fte = false ∨ (r.overflow || r.tiny || (r.inexact && s.ti)) = false) →
      ∃ u, UnitStatus unit s false r.overflow r.tiny r.inexact u ∧ frame u ∧ fpCheck unit x p false s = .done r.bits u)

/-- fadd, fsub and fmul: operands at S, the exact result rounded to R by FPCheck and written to fdest; the status of the adder or the
multiplier unit recorded; nothing else changes (R341, R342 to R345). -/
def Obligations.ScalarArithmetic : Prop :=
  ∀ (s : State) (o : Fp3), SourcesReady s o → alignedFor o.r o.dest = true → pairArith o.s o.r = true →
    let completes := fun (i : Instr) (unit : FpUnit) (x : FVal) =>
      FpPasses s o.r (exceptional s o) x → Completes i s none fun u =>
        FpWritten s o.r o.dest (fpBits s o.r (exceptional s o) x) u ∧ FpStatus unit s o.r (exceptional s o) x u ∧ FpFrame s u
    completes (.fadd o) .adder (exactAdd s.rm (value1 s o) (value2 s o)) ∧
    completes (.fsub o) .adder (exactSub s.rm (value1 s o) (value2 s o)) ∧
    completes (.fmul o) .multiplier (exactMul (value1 s o) (value2 s o))

/-- pfadd, pfsub, pfmul and pfmul3.dd: the rounded result enters the adder or the multiplier pipeline at stage 1, every stage moves by one,
and fdest receives the entry leaving the last stage, which is the second for double sources of pfmul (its third stage is emptied) and the
third otherwise; an empty stage leaves the model's free value, notes/assumptions/5.md (R312 to R316, R342 to R346). -/
def Obligations.PipelinedArithmetic : Prop :=
  ∀ (s : State),
    (∀ o : Fp3, SourcesReady s o → pairArith o.s o.r = true →
      let se := exceptional s o
      let entry := fun x => some (entryOf o.r (fpBits s o.r se x))
      let adder := fun (i : Instr) (x : FVal) =>
        FpPasses s o.r se x → retireFits s.adder.s3 o.dest = true → Completes i s none fun u =>
          Retired s s.adder.s3 o.r o.dest u ∧ FpStatus .adder s o.r se x u ∧
            AdderFrame s { s1 := entry x, s2 := s.adder.s1, s3 := s.adder.s2 } u
      adder (.pfadd o) (exactAdd s.rm (value1 s o) (value2 s o)) ∧
      adder (.pfsub o) (exactSub s.rm (value1 s o) (value2 s o)) ∧
      (let x := exactMul (value1 s o) (value2 s o);
        (o.s = .single → FpPasses s o.r se x → retireFits s.multiplier.s3 o.dest = true → Completes (.pfmul o) s none fun u =>
          Retired s s.multiplier.s3 o.r o.dest u ∧ FpStatus .multiplier s o.r se x u ∧
            MultiplierFrame s { s1 := entry x, s2 := s.multiplier.s1, s3 := s.multiplier.s2 } u) ∧
        (o.s = .double → FpPasses s o.r se x → retireFits s.multiplier.s2 o.dest = true → Completes (.pfmul o) s none fun u =>
          Retired s s.multiplier.s2 o.r o.dest u ∧ FpStatus .multiplier s o.r se x u ∧
            MultiplierFrame s { s1 := entry x, s2 := s.multiplier.s1, s3 := none } u))) ∧
    ∀ o : FpDd,
      let o3 : Fp3 := { src1 := o.src1, src2 := o.src2, dest := o.dest, s := .double, r := .double, d := o.d }
      let x := exactMul (value1 s o3) (value2 s o3);
      SourcesReady s o3 → FpPasses s .double (exceptional s o3) x → retireFits s.multiplier.s3 o.dest = true →
      Completes (.pfmul3 o) s none fun u =>
        Retired s s.multiplier.s3 .double o.dest u ∧ FpStatus .multiplier s .double (exceptional s o3) x u ∧
          MultiplierFrame s
            { s1 := some (entryOf .double (fpBits s .double (exceptional s o3) x)), s2 := s.multiplier.s1
              s3 := s.multiplier.s2 } u

/-- A floating-point trap of fadd, fsub, fmul, famov, their pipelined forms and pfmul3.dd is taken before any register or pipeline write: an
exceptional source first, then the result conditions; fsr holds what was recorded, and nothing else changes. So is the trap of fix, ftrunc
and their pipelined forms for an inexact result with TI set. A trap of either unit of a dual operation, the multiplier first, leaves KR,
KI, T, both pipelines and fdest as they were (R314, R341, R350 to R352, R385, R434; that an inexact conversion clears SE and sets SI is
notes/assumptions/10.md, and the count of free values is the model's, notes/assumptions/5.md). -/
def Obligations.ArithmeticTraps : Prop :=
  ∀ s : State, s.fte = true → s.pendDslot = false →
    let taken := fun (i : Instr) (reason : TrapReason) (u : State) =>
      Traps i s u s.pc { cls := .ft, reason := reason, detail := .nothing }
    let traps := fun (i : Instr) (unit : FpUnit) (p : Prec) (se : Bool) (x : FVal) =>
      (se = true → ∃ u, SeIs true s u ∧ u = { s with fsr := u.fsr } ∧ taken i .fpSource u) ∧
      (se = false → resultTraps s.ti (s.checked p x) = true → ∃ u,
        FpStatus unit s p false x u ∧ u = { s with fsr := u.fsr } ∧ taken i .fpResult u)
    (∀ o : Fp3, SourcesReady s o → pairArith o.s o.r = true →
      let adder := fun (i : Instr) => traps i .adder o.r (exceptional s o)
      let multiplier := fun (i : Instr) => traps i .multiplier o.r (exceptional s o)
      let sum := exactAdd s.rm (value1 s o) (value2 s o)
      let difference := exactSub s.rm (value1 s o) (value2 s o)
      let product := exactMul (value1 s o) (value2 s o)
      (alignedFor o.r o.dest = true →
        adder (.fadd o) sum ∧ adder (.fsub o) difference ∧ multiplier (.fmul o) product) ∧
      adder (.pfadd o) sum ∧ adder (.pfsub o) difference ∧ multiplier (.pfmul o) product) ∧
    (∀ o : FpDd,
      let o3 : Fp3 := { src1 := o.src1, src2 := o.src2, dest := o.dest, s := .double, r := .double, d := o.d }
      SourcesReady s o3 →
      traps (.pfmul3 o) .multiplier .double (exceptional s o3) (exactMul (value1 s o3) (value2 s o3))) ∧
    (∀ o : Fp2, Executes s o.d → alignedFor o.s o.src = true →
      let se := sourceException o.s (s.fr o.s o.src)
      let x := fval o.s (s.fr o.s o.src)
      (alignedFor o.r o.dest = true → traps (.famov o) .adder o.r se x) ∧ traps (.pfamov o) .adder o.r se x) ∧
    (∀ (o : Fp2) (neg : Bool) (m : Nat) (e : Int), Executes s o.d → pairFix o.s o.r = true → alignedFor o.s o.src = true →
      fval o.s (s.fr o.s o.src) = .fin neg m e → s.ti = true →
      let rule := fun (rm : RMode) (scalar piped : Instr) =>
        -2 ^ 31 ≤ (roundToInt rm neg m e).1 → (roundToInt rm neg m e).1 < 2 ^ 31 → (roundToInt rm neg m e).2 = true →
        ∃ u : State, (∀ k, u.fsr.getLsbD k = if k = 7 ∨ k = 15 then true else if k = 8 then false else s.fsr.getLsbD k) ∧
          u = { s with fsr := u.fsr, freeCount := u.freeCount } ∧
          (alignedFor .double o.dest = true → taken scalar .fpResult u) ∧ taken piped .fpResult u
      rule s.rm (.fix o) (.pfix o) ∧ rule .zero (.ftrunc o) (.pftrunc o)) ∧
    ∀ (dpc : BitVec 4) (o : Fp3), Executes s o.d → pairArith o.s o.r = true →
      alignedFor o.r o.src1 = true → alignedFor o.r o.src2 = true → alignedFor o.r o.dest = true →
      let ops := dualOperands dpc o s
      ops.fits o.s o.r = true →
      ∀ (op : ExactOp) (i : Instr), (op = exactAdd ∧ (i = .pfam dpc o ∨ i = .pfmam dpc o) ∨
          op = exactSub ∧ (i = .pfsm dpc o ∨ i = .pfmsm dpc o)) →
        ∀ (reason : TrapReason) (fsr : Word) (n : Nat),
          let u := { s with fsr := fsr, freeCount := n }
          (unitResult .multiplier mulOp o.s o.r ops.m1 ops.m2 s = raise .ft reason .nothing u → taken i reason u) ∧
          ∀ (mres : Dword) (s1 : State), unitResult .multiplier mulOp o.s o.r ops.m1 ops.m2 s = .done mres s1 →
            unitResult .adder op o.r o.r ops.a1 ops.a2 s1 = raise .ft reason .nothing u → taken i reason u

/-- fmlow.dd: bits 52:0 of the product of bits 52:0 of the sources, bit 63 the exclusive or of their signs, bits 62:53 any value; no
status bit changes (R347). -/
def Obligations.MultiplyLow : Prop :=
  ∀ (s : State) (o : FpDd), Executes s o.d → alignedFor .double o.src1 = true → alignedFor .double o.src2 = true →
    alignedFor .double o.dest = true → Completes (.fmlow o) s none fun u =>
      (∃ v : Dword,
        v.extractLsb' 0 53 =
          BitVec.ofNat 53 (((s.fd o.src1).extractLsb' 0 53).toNat * ((s.fd o.src2).extractLsb' 0 53).toNat) ∧
        v.getLsbD 63 = ((s.fd o.src1).getLsbD 63 != (s.fd o.src2).getLsbD 63) ∧ FpWritten s .double o.dest v u) ∧
      MemoryKept s u ∧ u = { s with fpr := u.fpr, freeCount := u.freeCount }

/-- frcp and frsqr: a source in the domain clears SE and gives the parameter function's value; a zero source (of frsqr also a negative
one) sets SE, and then traps with FTE set and else writes any value; nothing else changes (R348, R349; that frsqr clears SE is
notes/assumptions/10.md). -/
def Obligations.Approximations : Prop :=
  ∀ (s : State) (o : Fp2), Executes s o.d → pairArith o.s o.r = true → alignedFor o.s o.src = true →
    alignedFor o.r o.dest = true →
    let b := fval o.s (s.fr o.s o.src)
    let rule := fun (i : Instr) (outside : Bool) (fn : Dword → Prec → Prec → Dword) =>
      (outside = false → Completes i s none fun u =>
        FpWritten s o.r o.dest (fn (s.fr o.s o.src) o.s o.r) u ∧ SeIs false s u ∧ FpFrame s u) ∧
      (outside = true → s.fte = false → Completes i s none fun u =>
        FprKeptBut (occupies o.r o.dest) s u ∧ SeIs true s u ∧ FpFrame s u) ∧
      (outside = true → s.fte = true → s.pendDslot = false → ∃ u, SeIs true s u ∧ u = { s with fsr := u.fsr } ∧
        Traps i s u s.pc { cls := .ft, reason := .fpSource, detail := .nothing })
    rule (.frcp o) b.isZero Config.frcpFn ∧ rule (.frsqr o) (b.isZero || b.isNegative) Config.frsqrFn

/-- fix, ftrunc and their pipelined forms, of a finite source whose rounding (under RM, for ftrunc toward zero) is a signed 32-bit
integer: bits 31:0 of the result are the integer, the rest any value; SE is cleared and AI says that the value is not the integer, SI
sticking; the pipelined forms issue the result as a double entry through the adder pipeline (R341, R350, R351). That SE is cleared here is
the model's reading, notes/assumptions/10.md. -/
def Obligations.Conversions : Prop :=
  ∀ (s : State) (o : Fp2) (neg : Bool) (m : Nat) (e : Int), Executes s o.d → pairFix o.s o.r = true →
    alignedFor o.s o.src = true → fval o.s (s.fr o.s o.src) = .fin neg m e →
    let rule := fun (rm : RMode) (scalar piped : Instr) =>
      let n := (roundToInt rm neg m e).1
      let inexact := (roundToInt rm neg m e).2
      let status := fun u : State => u.fsr.getLsbD 8 = false ∧ u.fsr.getLsbD 15 = inexact ∧
        u.fsr.getLsbD 7 = (s.fsr.getLsbD 7 || inexact) ∧ FsrKeptBut (fun k => k = 7 ∨ k = 8 ∨ k = 15) s u
      (-2 ^ 31 ≤ n ∧ n < 2 ^ 31) → (s.fte = false ∨ inexact = false ∨ s.ti = false) →
      (alignedFor .double o.dest = true → Completes scalar s none fun u =>
        (∃ v : Dword, v.extractLsb' 0 32 = BitVec.ofInt 32 n ∧ FpWritten s .double o.dest v u) ∧ status u ∧ FpFrame s u) ∧
      (retireFits s.adder.s3 o.dest = true → Completes piped s none fun u =>
        Retired s s.adder.s3 .double o.dest u ∧ status u ∧
        ∃ v : Dword, v.extractLsb' 0 32 = BitVec.ofInt 32 n ∧
          AdderFrame s { s1 := some { value := v, prec := .double }, s2 := s.adder.s1, s3 := s.adder.s2 } u)
    rule s.rm (.fix o) (.pfix o) ∧ rule .zero (.ftrunc o) (.pftrunc o)

/-- fix, ftrunc and their pipelined forms, of a NaN, an infinity or a value with no signed 32-bit integer: SE is set; with FTE set they
trap before any register or pipeline write, and else they go on with any value as the result, and of a finite source AI still says that
the value is not the integer it rounds to; SI is set by AI and never cleared (R350, R351; that SI follows AI, and that AI is free for a NaN
or an infinity, is notes/assumptions/10.md). -/
def Obligations.ConversionsOutOfRange : Prop :=
  ∀ (s : State) (o : Fp2), Executes s o.d → pairFix o.s o.r = true → alignedFor o.s o.src = true →
    let rule := fun (rm : RMode) (scalar piped : Instr) =>
      (∀ neg m e, fval o.s (s.fr o.s o.src) = .fin neg m e →
        (roundToInt rm neg m e).1 < -2 ^ 31 ∨ 2 ^ 31 ≤ (roundToInt rm neg m e).1) →
      let status := fun u : State => u.fsr.getLsbD 8 = true ∧
        (∀ neg m e, fval o.s (s.fr o.s o.src) = .fin neg m e → u.fsr.getLsbD 15 = (roundToInt rm neg m e).2) ∧
        u.fsr.getLsbD 7 = (s.fsr.getLsbD 7 || u.fsr.getLsbD 15) ∧ FsrKeptBut (fun k => k = 7 ∨ k = 8 ∨ k = 15) s u
      (s.fte = false → alignedFor .double o.dest = true → Completes scalar s none fun u =>
        FprKeptBut (occupies .double o.dest) s u ∧ status u ∧ FpFrame s u) ∧
      (s.fte = false → retireFits s.adder.s3 o.dest = true → Completes piped s none fun u =>
        Retired s s.adder.s3 .double o.dest u ∧ status u ∧
        ∃ v : Dword, AdderFrame s { s1 := some { value := v, prec := .double }, s2 := s.adder.s1, s3 := s.adder.s2 } u) ∧
      (s.fte = true → s.pendDslot = false → ∃ u, SeIs true s u ∧ u = { s with fsr := u.fsr } ∧
        (alignedFor .double o.dest = true →
          Traps scalar s u s.pc { cls := .ft, reason := .fpSource, detail := .nothing }) ∧
        Traps piped s u s.pc { cls := .ft, reason := .fpSource, detail := .nothing })
    rule s.rm (.fix o) (.pfix o) ∧ rule .zero (.ftrunc o) (.pftrunc o)

/-- famov and pfamov: the source, checked and rounded to the result precision, goes to fdest, or through the adder pipeline (R341, R352). -/
def Obligations.AdderMoves : Prop :=
  ∀ (s : State) (o : Fp2), Executes s o.d → alignedFor o.s o.src = true →
    let x := fval o.s (s.fr o.s o.src)
    let se := sourceException o.s (s.fr o.s o.src)
    FpPasses s o.r se x →
    (alignedFor o.r o.dest = true → Completes (.famov o) s none fun u =>
      FpWritten s o.r o.dest (fpBits s o.r se x) u ∧ FpStatus .adder s o.r se x u ∧ FpFrame s u) ∧
    (retireFits s.adder.s3 o.dest = true → Completes (.pfamov o) s none fun u =>
      Retired s s.adder.s3 o.r o.dest u ∧ FpStatus .adder s o.r se x u ∧
        AdderFrame s { s1 := some (entryOf o.r (fpBits s o.r se x)), s2 := s.adder.s1, s3 := s.adder.s2 } u)

/-- pfgt, pfle and pfeq: CC takes the comparison, which is false of unordered operands (for pfle its negation or itself, by the parameter
PFLE_SENSE), SE says an operand is a NaN, fdest receives the entry leaving the adder and the compare's own entry is empty; a NaN traps when FTE is
set (R321, R353, R354, R355; the destination of an empty leaving entry is as notes/assumptions/9.md says). -/
def Obligations.Compares : Prop :=
  ∀ (s : State) (p : Prec) (src1 src2 dest : Reg) (d : Bool), Executes s d → alignedFor p src1 = true → alignedFor p src2 = true →
    let a := fval p (s.fr p src1)
    let b := fval p (s.fr p src2)
    let unordered := a.isNan || b.isNan
    let rule := fun (i : Instr) (cc : Bool) =>
      ((unordered && s.fte) = false → retireFits s.adder.s3 dest = true → Completes i s none fun u =>
        Retired s s.adder.s3 p dest u ∧ SeIs unordered s u ∧ CcIs cc s u ∧ MemoryKept s u ∧
          u = { s with
            fpr := u.fpr, psr := u.psr, fsr := u.fsr, freeCount := u.freeCount
            adder := { s1 := none, s2 := s.adder.s1, s3 := s.adder.s2 } }) ∧
      ((unordered && s.fte) = true → s.pendDslot = false → ∃ u, SeIs true s u ∧ u = { s with fsr := u.fsr } ∧
        Traps i s u s.pc { cls := .ft, reason := .fpSource, detail := .nothing })
    ∀ r : Prec,
      rule (.pfgt { src1 := src1, src2 := src2, dest := dest, s := p, d := d }) (!unordered && fLess b a) ∧
      rule (.pfle { src1 := src1, src2 := src2, dest := dest, s := p, d := d })
        (match s.params.pfleSense with
          | .negated => !(!unordered && (fLess a b || fEqual a b))
          | .plain => !unordered && (fLess a b || fEqual a b)) ∧
      (r = p → rule (.pfeq { src1 := src1, src2 := src2, dest := dest, s := p, r := r, d := d }) (!unordered && fEqual a b))

/-- The operands of a dual operation are those of the table's row; where the parameters DPC_K_LOAD and K_LOAD_USES_NEW say so, the constant
register just loaded stands for the old one. After reset the load parameters have their defaults, K for DPC 0 to 7 and T for DPC 2, 3, 6, 7,
8 and 11; that T is not loaded for DPC 12, as decision D48 has it over the column of R380's table, is the model's choice,
notes/assumptions/23.md. One unit of it, with both operands present, is FPCheck
of the operation on values of the unit's precision, rounded to R; with an empty operand the result is any value, the status bits stay and
nothing is checked (the free value is notes/assumptions/5.md). With FTE clear it completes (R341, R380, R385 to R387). -/
def Obligations.DualOperandsAndUnits : Prop :=
  (∀ n, n < 16 →
    State.reset.params.dpcTLoad.getLsbD n = decide (n ∈ [2, 3, 6, 7, 8, 11]) ∧
    State.reset.params.dpcKLoad.getLsbD n = decide (n < 8) ∧ State.reset.params.kLoadUsesNew = true) ∧
  (∀ (dpc : BitVec 4) (o : Fp3) (s : State),
    let ops := dualOperands dpc o s
    let mout := ofEntry (if o.s = .double then s.multiplier.s2 else s.multiplier.s3)
    let aout := ofEntry s.adder.s3
    let src1m := UnitOperand.value (s.fr o.s o.src1) (some o.s)
    let src2m := UnitOperand.value (s.fr o.s o.src2) (some o.s)
    let src1a := UnitOperand.value (s.fr o.r o.src1) (some o.r)
    let src2a := UnitOperand.value (s.fr o.r o.src2) (some o.r)
    let n := dpc.toNat
    (ops.m1 = if n = 9 ∨ n = 11 ∨ n = 13 ∨ n = 15 ∨ (s.params.dpcKLoad.getLsbD n && s.params.kLoadUsesNew) = true then src1m
      else ofTagged (if n < 4 ∨ n = 8 ∨ n = 10 then s.kr else s.ki)) ∧
    (ops.m2 = if n = 8 ∨ n = 10 ∨ n = 12 ∨ n = 14 then aout else src2m) ∧
    (ops.a1 = if n < 8 then (if n % 2 = 0 then src1a else ofTagged s.t)
      else if n = 9 then aout else if n % 2 = 0 then src1a else ofTagged s.t) ∧
    ops.a2 = if n < 8 then (if n / 2 % 2 = 0 then mout else aout)
      else if n = 9 ∨ n = 13 then mout else if n = 11 ∨ n = 15 then aout else src2a) ∧
  ∀ (unit : FpUnit) (op : ExactOp) (sp rp : Prec) (a b : UnitOperand) (s : State),
    (∀ va qa vb qb, a = .value va qa → b = .value vb qb →
      unitResult unit op sp rp a b s =
        fpCheck unit (op s.rm (fval sp va) (fval sp vb)) rp (sourceException sp va || sourceException sp vb) s) ∧
    (a = .empty ∨ b = .empty → ∃ v, unitResult unit op sp rp a b s = .done v { s with freeCount := s.freeCount + 1 }) ∧
    (s.fte = false → ∃ v u, unitResult unit op sp rp a b s = .done v u ∧
      u = { s with fsr := u.fsr, freeCount := u.freeCount })

/-- pfam, pfsm, pfmam and pfmsm: with every operand read first and both units checked without a trap, KR or KI takes fsrc1 when DPC_K_LOAD
says so, T takes the entry leaving the multiplier when DPC_T_LOAD does, both results are pushed, and fdest
receives the entry leaving the adder (pfam, pfsm) or the multiplier (pfmam, pfmsm); SE is the OR of both checks;
nothing else changes (R323, R380 to R387; SE when a unit is not checked, notes/assumptions/10.md; T from an empty stage,
notes/assumptions/12.md; registers aligned at R, notes/assumptions/24.md). -/
def Obligations.DualOperations : Prop :=
  ∀ (s s1 s2 : State) (dpc : BitVec 4) (o : Fp3) (mres ares : Dword),
    Executes s o.d → pairArith o.s o.r = true →
    alignedFor o.r o.src1 = true → alignedFor o.r o.src2 = true → alignedFor o.r o.dest = true →
    let ops := dualOperands dpc o s
    let n := dpc.toNat
    let loadsK := s.params.dpcKLoad.getLsbD n
    let aout := s.adder.s3
    let mout := if o.s = .double then s.multiplier.s2 else s.multiplier.s3
    ops.fits o.s o.r = true →
    unitResult .multiplier mulOp o.s o.r ops.m1 ops.m2 s = .done mres s1 →
    let rule := fun (i : Instr) (op : ExactOp) (out : Option Entry) =>
      unitResult .adder op o.r o.r ops.a1 ops.a2 s1 = .done ares s2 → retireFits out o.dest = true →
      Completes i s none fun u =>
        Retired s out o.r o.dest u ∧
        u.adder = { s1 := some (entryOf o.r ares), s2 := s.adder.s1, s3 := s.adder.s2 } ∧
        u.multiplier =
          { s1 := some (entryOf o.r mres), s2 := s.multiplier.s1, s3 := if o.s = .double then none else s.multiplier.s2 } ∧
        u.kr = (if loadsK = true ∧ (n < 4 ∨ n = 8 ∨ n = 10) then { value := s.fr o.s o.src1, tag := some o.s } else s.kr) ∧
        u.ki = (if loadsK = true ∧ (4 ≤ n ∧ n < 8 ∨ n = 12 ∨ n = 14) then { value := s.fr o.s o.src1, tag := some o.s } else s.ki) ∧
        (if s.params.dpcTLoad.getLsbD n = true then
          u.t.tag = mout.map Entry.prec ∧ (∀ e, mout = some e → u.t.value = e.value)
        else u.t = s.t) ∧
        u.fsr.getLsbD 8 =
          (if bothPresent ops.a1 ops.a2 then (bothPresent ops.m1 ops.m2 && s1.se) || s2.se else s2.se) ∧
        (∀ k, k ≠ 8 → u.fsr.getLsbD k = s2.fsr.getLsbD k) ∧ MemoryKept s u ∧
        u = { s with
          fpr := u.fpr, fsr := u.fsr, kr := u.kr, ki := u.ki, t := u.t, adder := u.adder, multiplier := u.multiplier
          freeCount := u.freeCount }
    rule (.pfam dpc o) exactAdd aout ∧ rule (.pfsm dpc o) exactSub aout ∧
      rule (.pfmam dpc o) exactAdd mout ∧ rule (.pfmsm dpc o) exactSub mout

/-! ### Graphics -/

/-- The graphics unit's instructions in their scalar form, the result in fdest, and in their pipelined form, the result issued through
the one-stage pipeline and fdest receiving the entry leaving it: integer add and subtract (of words, or of 64-bit values), pixel add and
Z add with MERGE, 32-bit and 16-bit Z check with PM, OR with MERGE; nothing else changes (R312, R317, R400 to R407). -/
def Obligations.GraphicsResults : Prop :=
  ∀ s : State,
    let scalar := fun (r : Prec) (dest : Reg) (v : Dword) (u : State) => FpWritten s r dest v u ∧ u.graphics = s.graphics
    let piped := fun (r : Prec) (dest : Reg) (v : Dword) (u : State) =>
      Retired s s.graphics r dest u ∧ u.graphics = some (entryOf r v)
    let frame := fun (merge : Dword → Prop) (pm : BitVec 8) (u : State) => merge u.merge.value ∧
      u.psr.extractLsb' 24 8 = pm ∧ PsrKeptBut (fun k => 24 ≤ k) s u ∧ MemoryKept s u ∧
      u = { s with fpr := u.fpr, psr := u.psr, merge := u.merge, graphics := u.graphics, freeCount := u.freeCount }
    let both := fun (scalarI pipedI : Instr) (r : Prec) (dest : Reg) (v : Dword) (merge : Dword → Prop) (pm : BitVec 8) =>
      (alignedFor r dest = true → Completes scalarI s none fun u => scalar r dest v u ∧ frame merge pm u) ∧
      (retireFits s.graphics dest = true → Completes pipedI s none fun u => piped r dest v u ∧ frame merge pm u)
    let sameMerge := fun m => m = s.merge.value
    (∀ o : Fp3, Executes s o.d → o.s = .single → o.r = .single →
      both (.fiadd o) (.pfiadd o) .single o.dest ((s.f o.src1 + s.f o.src2).setWidth 64) sameMerge s.pm ∧
      both (.fisub o) (.pfisub o) .single o.dest ((s.f o.src1 - s.f o.src2).setWidth 64) sameMerge s.pm) ∧
    (∀ o : Fp3, Executes s o.d → o.s = .double → o.r = .double → alignedFor .double o.src1 = true → alignedFor .double o.src2 = true →
      let a := s.fd o.src1
      let b := s.fd o.src2
      let low := fun i n => decide (a.toNat / 2 ^ (n * i) % 2 ^ n < b.toNat / 2 ^ (n * i) % 2 ^ n)
      both (.fiadd o) (.pfiadd o) .double o.dest (a + b) sameMerge s.pm ∧
      both (.fisub o) (.pfisub o) .double o.dest (a - b) sameMerge s.pm ∧
      (s.ps ≠ 3#2 → both (.faddp o) (.pfaddp o) .double o.dest (a + b) (fun m => m =
        if s.ps = 0#2 then (s.merge.value >>> 8) ||| ((a + b) &&& 0xFF00FF00FF00FF00#64)
        else if s.ps = 1#2 then (s.merge.value >>> 6) ||| ((a + b) &&& 0xFC00FC00FC00FC00#64)
        else (s.merge.value >>> 8) ||| ((a + b) &&& 0xFF000000FF000000#64)) s.pm) ∧
      both (.faddz o) (.pfaddz o) .double o.dest (a + b)
        (fun m => m = (s.merge.value >>> 16) ||| ((a + b) &&& 0xFFFF0000FFFF0000#64)) s.pm ∧
      (∀ (v : Dword) (pm : BitVec 8),
        (∀ i, i < 2 → v.extractLsb' (32 * i) 32 = if low i 32 then a.extractLsb' (32 * i) 32 else b.extractLsb' (32 * i) 32) →
        (∀ i, i < 6 → pm.getLsbD i = s.pm.getLsbD (i + 2)) → (∀ i, i < 2 → pm.getLsbD (i + 6) = low i 32) →
        both (.fzchkl o) (.pfzchkl o) .double o.dest v sameMerge pm) ∧
      ∀ (v : Dword) (pm : BitVec 8),
        (∀ i, i < 4 → v.extractLsb' (16 * i) 16 = if low i 16 then a.extractLsb' (16 * i) 16 else b.extractLsb' (16 * i) 16) →
        (∀ i, i < 4 → pm.getLsbD i = s.pm.getLsbD (i + 4)) → (∀ i, i < 4 → pm.getLsbD (i + 4) = low i 16) →
        both (.fzchks o) (.pfzchks o) .double o.dest v sameMerge pm) ∧
    ∀ o : Fp2, Executes s o.d → o.s = .double → o.r = .double → alignedFor .double o.src = true →
      both (.form o) (.pform o) .double o.dest (s.fd o.src ||| s.merge.value) (fun m => m = 0#64) s.pm

/-- With KNF set an FP-escape instruction is suppressed: KNF is cleared and nothing else changes (R133). So is a fetched FP-escape word of a
form that no instruction has: the step ends with KNF cleared and nothing else beyond the fetch changed. That this holds of a form that R129
refuses, and of D = 1 under DUAL_MODE_POLICY = refuse, is the model's reading, notes/assumptions/16.md. -/
def Obligations.KillNextFloating : Prop :=
  (∀ (i : Instr) (s : State), (opFlags (encode i)).fp = true → s.knf = true → Completes i s none (SuppressedFrom s)) ∧
  ∀ (s t : State) (w : Word) (form : ReservedForm) (d : Bool), s.held = false → fetch s.pc s = .done w t →
    decodeWord w = .reserved form d → (opFlags w).fp = true → t.knf = true →
    ∃ u, SuppressedFrom t u ∧ step s = .next (u.endStep s.pc none) ∧
      (u.pendSync = false → u.pendExt = false → (u.intPin && u.im) = false → step s = .next { u with pc := s.pc + 4#32 })

/-! ### Data access checks and translation -/

/-- A data access, that is every load, store, fld, fst, pfld and pst.d in each address form and with either auto-increment: at a misaligned
address it takes the data access trap; aligned where an enabled breakpoint matches, the breakpoint trap; both before any translation, bus
access or register write; and else, where its translation faults, the translation's trap. Every register is then as before: only the
accessed bits and the bus record of the translation may differ (R79, R90, R91, R92, R160, R175, R435). -/
def Obligations.DataCheckTraps : Prop :=
  ∀ s : State, s.pendDslot = false →
    let rule := fun (k : Nat) (kind : AccessKind) (ea : Word) (i : Instr) =>
      let traps := fun (u : State) (reason : TrapReason) => Traps i s u s.pc { cls := .dat, reason := reason, detail := .access ea kind }
      let stops := (if kind = .write then s.breakWrite else s.breakRead) = true ∧ ea.toNat / 2 ^ k = s.db.toNat / 2 ^ k
      (ea.toNat % 2 ^ k ≠ 0 → traps s .unaligned) ∧ (ea.toNat % 2 ^ k = 0 → stops → traps s .breakpoint) ∧
        (ea.toNat % 2 ^ k = 0 → ¬ stops → ∀ (mem : Memory) (bus : List BusAccess),
          let u := { s with mem := mem, bus := bus }
          translate ea kind s = raise .dat .translation (.access ea kind) u → traps u .translation)
    ∀ (src1 src2 r : Reg) (inc : Bool),
      (let ea := s.x src1 + s.x src2;
        rule 0 .read ea (.ldbR src1 src2 r) ∧ rule 1 .read ea (.ldsR src1 src2 r) ∧ rule 2 .read ea (.ldlR src1 src2 r) ∧
        rule 2 .read ea (.fldlR src1 src2 r inc) ∧ rule 2 .read ea (.pfldlR src1 src2 r inc) ∧
        rule 2 .write ea (.fstlR src1 src2 r inc) ∧ rule 3 .read ea (.pflddR src1 src2 r inc) ∧
        (alignedFor .double r = true →
          rule 3 .read ea (.flddR src1 src2 r inc) ∧ rule 3 .write ea (.fstdR src1 src2 r inc)) ∧
        (alignedQuad r = true →
          rule 4 .read ea (.fldqR src1 src2 r inc) ∧ rule 4 .write ea (.fstqR src1 src2 r inc))) ∧
      (∀ imm, let ea := dispByte imm + s.x src2;
        rule 0 .read ea (.ldbI imm src2 r) ∧ rule 0 .write ea (.stb src1 imm src2)) ∧
      (∀ imm,
        (let ea := dispHalf imm + s.x src2; rule 1 .read ea (.ldsI imm src2 r) ∧ rule 1 .write ea (.sts src1 imm src2)) ∧
        (let ea := dispWord imm + s.x src2; rule 2 .read ea (.ldlI imm src2 r) ∧ rule 2 .write ea (.stl src1 imm src2))) ∧
      (∀ imm, let ea := dispFl imm + s.x src2;
        rule 2 .read ea (.fldlI imm src2 r inc) ∧ rule 2 .read ea (.pfldlI imm src2 r inc) ∧
        rule 2 .write ea (.fstlI imm src2 r inc)) ∧
      ∀ imm,
        (let ea := dispFd imm + s.x src2;
          rule 3 .read ea (.pflddI imm src2 r inc) ∧
          (alignedFor .double r = true →
            rule 3 .read ea (.flddI imm src2 r inc) ∧ rule 3 .write ea (.fstdI imm src2 r inc) ∧
            (s.ps ≠ 3#2 → rule 3 .write ea (.pstd r imm src2 inc)))) ∧
        (let ea := dispFq imm + s.x src2;
          alignedQuad r = true → rule 4 .read ea (.fldqI imm src2 r inc) ∧ rule 4 .write ea (.fstqI imm src2 r inc))

/-- A translation that succeeds: both entries present, writable where that is checked, user where that is checked, and for a write the
page dirty; the answer is the page's frame with the page offset; the accessed bit is set in both entries, and no other bit of memory
changes, nor any register. The directory entry stands at DTB with bits 31:22 of the address, the page entry at the directory entry's frame
with bits 21:12; the bus sees their two reads, and then their two writes, also where the accessed bit was set (R80 to R87, R102). -/
def Obligations.TranslationSucceeds : Prop :=
  ∀ (s : State) (va : Word) (kind : AccessKind), s.mem.wf = true →
    s.pdeAddr va = (s.dirbase.extractLsb' 12 20 ++ va.extractLsb' 22 10 ++ 0#2 : BitVec 32) ∧
    (∀ pde : Word, pteAddr pde va = (pde.extractLsb' 12 20 ++ va.extractLsb' 12 10 ++ 0#2 : BitVec 32)) ∧
    (s.ate = false → translate va kind s = .done va s) ∧
    (let pde := s.mem.word s.params.fetchBigEndian (s.pdeAddr va)
      let pte := s.mem.word s.params.fetchBigEndian (pteAddr pde va)
      s.ate = true → s.entryPasses kind pde = true → s.entryPasses kind pte = true → (kind = .write → entryDirty pte = true) →
      ∃ t, translate va kind s = .done ((pte.extractLsb' 12 20 ++ va.extractLsb' 0 12 : BitVec 32)) t ∧
        t = { s with
          mem := t.mem
          bus := [writeOf (pteAddr pde va) 4 (pte ||| 0x20#32), writeOf (s.pdeAddr va) 4 (pde ||| 0x20#32),
            readOf (pteAddr pde va) 4 pte, readOf (s.pdeAddr va) 4 pde] ++ s.bus } ∧
        t.mem.wf = true ∧ (∀ a, ¬ tableByte s va a → t.mem.byteAt a = s.mem.byteAt a) ∧
        t.mem.word s.params.fetchBigEndian (s.pdeAddr va) = pde ||| 0x20#32 ∧
        t.mem.word s.params.fetchBigEndian (pteAddr pde va) = pte ||| 0x20#32)

/-- A translation that fails raises the access trap of its kind, IAT for a fetch and DAT for data: at the directory entry before the page
entry is read, at the page entry before any accessed bit is written, and for a write to a page that is not dirty after both are written.
Memory is unchanged in the first two cases; in the third both entries hold their old word with the accessed bit set and no other byte
differs. An entry passes when it is present, when a write to it is allowed (unless in supervisor mode with WP clear it must be
writable), and when in user mode it is a user page (R81 to R86, R89, R102). -/
def Obligations.TranslationFaults : Prop :=
  (∀ (s : State) (kind : AccessKind) (e : Word),
    s.entryPasses kind e = true ↔
      e.getLsbD 0 = true ∧ (kind = .write → s.psr.getLsbD 6 = true ∨ s.epsr.getLsbD 14 = true → e.getLsbD 1 = true) ∧
        (s.psr.getLsbD 6 = true → e.getLsbD 2 = true)) ∧
  ∀ (s : State) (va : Word) (kind : AccessKind), s.ate = true → s.mem.wf = true →
    let pde := s.mem.word s.params.fetchBigEndian (s.pdeAddr va)
    let pte := s.mem.word s.params.fetchBigEndian (pteAddr pde va)
    let faults := fun (bus : List BusAccess) (mem : Memory) =>
      translate va kind s =
        (match kind with
          | .execute => raise .iat .instructionAccess (.access va .execute) { s with mem := mem, bus := bus ++ s.bus }
          | .read => raise .dat .translation (.access va .read) { s with mem := mem, bus := bus ++ s.bus }
          | .write => raise .dat .translation (.access va .write) { s with mem := mem, bus := bus ++ s.bus })
    (s.entryPasses kind pde = false → faults [readOf (s.pdeAddr va) 4 pde] s.mem) ∧
    (s.entryPasses kind pde = true → s.entryPasses kind pte = false →
      faults [readOf (pteAddr pde va) 4 pte, readOf (s.pdeAddr va) 4 pde] s.mem) ∧
    (kind = .write → s.entryPasses kind pde = true → s.entryPasses kind pte = true → entryDirty pte = false →
      ∃ mem, mem.wf = true ∧ (∀ a, ¬ tableByte s va a → mem.byteAt a = s.mem.byteAt a) ∧
        mem.word s.params.fetchBigEndian (s.pdeAddr va) = pde ||| 0x20#32 ∧
        mem.word s.params.fetchBigEndian (pteAddr pde va) = pte ||| 0x20#32 ∧
        faults [writeOf (pteAddr pde va) 4 (pte ||| 0x20#32), writeOf (s.pdeAddr va) 4 (pde ||| 0x20#32),
          readOf (pteAddr pde va) 4 pte, readOf (s.pdeAddr va) 4 pde] mem)

/-! ### Traps, interrupts and reset -/

/-- The end of a step. With no trap pending, an interrupt asserted and enabled is taken: fir holds the address of the next instruction
(the branch target of a step that set the pc), IN is set, PU and PIM take U and IM, and U, IM, DIM and DS are cleared; without one the pc
advances and nothing else changes. With a synchronous trap pending the entry is that trap's, IN set as well if an interrupt is recognised
(R132, R436, R441, R450; that a deterministic model samples at every boundary is R441's). -/
def Obligations.EndOfStep : Prop :=
  ∀ (s : State) (savepc : Word) (target : Option Word),
    (s.pendSync = false → s.pendExt = false → (s.intPin && s.im) = false →
      s.endStep savepc target = { s with pc := target.getD (savepc + 4#32) }) ∧
    (s.pendSync = false → (s.intPin && s.im) = true →
      let t := s.endStep savepc target
      t = { s with
        pc := s.params.trapVector, fir := target.getD (savepc + 4#32), firTrap := true, psr := t.psr
        pendDslot := false, pendExt := false } ∧
      ∀ k, t.psr.getLsbD k =
        if k = 4 ∨ k = 6 ∨ k = 13 ∨ k = 14 then false
        else if k = 5 then s.im else if k = 7 then s.user else if k = 9 then true else s.psr.getLsbD k) ∧
    ∀ c reason detail, s.pendDslot = false →
      TrapTaken s savepc { cls := c, reason := reason, detail := detail } ((s.recordTrap c reason detail).endStep savepc target)

/-- Reset: from any prior state, the values of the table of R470, memory and the parameters unchanged; RESET_VECTOR, TRAP_VECTOR and
EPSR_PROC_TYPE have their defaults in the state after reset. The cycle counter, which is not architectural, is not held
(notes/assumptions/14.md). -/
def Obligations.ResetValues : Prop :=
  ∀ s : State,
    let t := s.deviceReset
    t.pc = s.params.resetVector ∧ State.reset.pc = 0xFFFFFF00#32 ∧ State.reset.params.resetVector = 0xFFFFFF00#32 ∧
      State.reset.params.trapVector = 0xFFFFFF00#32 ∧ State.reset.params.epsrProcType = 1#8 ∧ t.params = s.params ∧
      t.psr = 0#32 ∧ t.dirbase = 0#32 ∧ t.db = 0#32 ∧ t.fsr = 0#32 ∧ t.fir = 0#32 ∧
      (∀ k, k = 13 ∨ k = 14 ∨ k = 23 ∨ k = 24 → t.readEpsr.getLsbD k = false) ∧
      t.readEpsr.extractLsb' 0 8 = s.params.epsrProcType ∧ t.readEpsr.extractLsb' 8 5 = s.params.epsrStepping ∧
      t.readEpsr.extractLsb' 18 4 = s.params.epsrDcs ∧ t.readEpsr.getLsbD 17 = s.intPin ∧
      t.adder = Pipe.empty ∧ t.multiplier = Pipe.empty ∧ t.loader = Pipe.empty ∧ t.graphics = none ∧
      t.merge.value = s.params.mergeReset ∧ t.x 0#5 = 0#32 ∧ t.f 0#5 = 0#32 ∧ t.f 1#5 = 0#32 ∧
      t.pendSync = false ∧ t.pendDslot = false ∧ t.pendExt = false ∧ t.firTrap = false ∧ t.mem = s.mem ∧
      State.reset.deviceReset = State.reset

/-- Two resets in a row give the same state as one (R472). -/
def Obligations.ResetIdempotent : Prop := ∀ s : State, s.deviceReset.deviceReset = s.deviceReset

/-- The invariant holds at reset. -/
def Obligations.InvariantAtReset : Prop := State.reset.Inv

/-- The invariant is kept by every step: memory keeps its canonical form, the reserved fields of psr, dirbase, fsr and epsr stay 0 (ITI
too), a single-precision pipeline entry occupies bits 31:0 of its slot, and between steps no trap is pending (R30 to R37, R52, R55,
R76, R450). -/
def Obligations.InvariantKept : Prop := ∀ s t : State, s.Inv → step s = .next t → t.Inv

/-- User mode is confined while no trap bit is set: a step from user mode with no trap bit set leaves db, all of dirbase but BL (which lock and
unlock write) and all of epsr but OF (which arithmetic writes) as they were; it stays in user mode with only CC, LCC, KNF (which an FP-escape
instruction clears), SC, PS and PM of psr changed, or it enters supervisor mode through the trap vector with PU recording user mode and fir
captured (R30, R31, R34, R36, R133, R285 to R287, R450, R460). With a trap bit set a bri may leave user mode otherwise, which the premise
shuts out: notes/assumptions/21.md. -/
def Obligations.UserModeConfined : Prop :=
  ∀ s t : State, s.Inv → s.user = true → s.trapBits = 0#5 → step s = .next t →
    t.db = s.db ∧ DirbaseKeptBut (fun k => k = 4) s t ∧ EpsrKeptBut (fun k => k = 24) s t ∧
    (t.user = true → t.trapBits = 0#5 ∧ PsrKeptBut (fun k => k = 2 ∨ k = 3 ∨ k = 15 ∨ 17 ≤ k) s t) ∧
    (t.user = false → t.pc = s.params.trapVector ∧ t.pu = true ∧ t.im = false ∧ t.firTrap = true ∧ t.trapBits ≠ 0#5)
end

