-- ==== Sys2Proof/Laws/Memory.lean ====
section
/-! SUPPORT. Physical memory: a byte read after a write, and the canonical form kept by every memory operation. -/

namespace Sys2Proof.Machine

/-! ### The cells -/

/-- A list in canonical form from `lo` on has nothing at a lower address. -/
theorem readCells_of_lt {l : List Host.Cell} {lo k : Nat} (h : cellsWf lo l = true) (hk : k < lo) :
    readCells l k = unlistedByte := by
  induction l generalizing lo with
  | nil => rfl
  | cons c rest ih =>
    obtain ⟨a, b⟩ := c
    simp only [cellsWf, Bool.and_eq_true, decide_eq_true_eq] at h
    obtain ⟨⟨⟨h1, _⟩, _⟩, h4⟩ := h
    have hne : k ≠ a := by omega
    simp only [readCells, hne, if_false]
    exact ih h4 (by omega)

/-- The canonical form from an address on is the canonical form from any lower one. -/
theorem cellsWf_mono {l : List Host.Cell} {lo lo' : Nat} (h : cellsWf lo l = true) (hl : lo' ≤ lo) :
    cellsWf lo' l = true := by
  cases l with
  | nil => rfl
  | cons c rest =>
    obtain ⟨a, b⟩ := c
    simp only [cellsWf, Bool.and_eq_true, decide_eq_true_eq] at h ⊢
    obtain ⟨⟨⟨h1, h2⟩, h3⟩, h4⟩ := h
    exact ⟨⟨⟨by omega, h2⟩, h3⟩, h4⟩

/-- The byte read after a write: the value at the address, the old byte elsewhere. -/
theorem readCells_writeCells {l : List Host.Cell} {lo : Nat} (h : cellsWf lo l = true) (k j : Nat) (v : Byte) :
    readCells (writeCells l k v) j = if j = k then v else readCells l j := by
  induction l generalizing lo with
  | nil =>
    unfold writeCells
    by_cases hv : v = unlistedByte
    · by_cases hj : j = k <;> simp [hv, hj, readCells]
    · by_cases hj : j = k <;> simp [hv, hj, readCells]
  | cons c rest ih =>
    obtain ⟨a, b⟩ := c
    have h' := h
    simp only [cellsWf, Bool.and_eq_true, decide_eq_true_eq] at h
    obtain ⟨⟨⟨h1, h2⟩, h3⟩, h4⟩ := h
    unfold writeCells
    by_cases hka : k < a
    · rw [if_pos hka]
      by_cases hv : v = unlistedByte
      · rw [if_pos hv]
        by_cases hj : j = k
        · have : readCells ((a, b) :: rest) k = unlistedByte :=
            readCells_of_lt (lo := a) (by
              simp only [cellsWf, Bool.and_eq_true, decide_eq_true_eq]; exact ⟨⟨⟨Nat.le_refl a, h2⟩, h3⟩, h4⟩) hka
          simp [hj, hv, this]
        · simp [hj]
      · rw [if_neg hv]
        by_cases hj : j = k <;> simp [hj, readCells]
    · rw [if_neg hka]
      by_cases hk : k = a
      · rw [if_pos hk]
        by_cases hv : v = unlistedByte
        · rw [if_pos hv]
          by_cases hj : j = k
          · have : readCells rest j = unlistedByte := readCells_of_lt h4 (by omega)
            simp [hj, hv] at this ⊢; exact this
          · have : j ≠ a := by omega
            simp [hj, readCells, this]
        · rw [if_neg hv]
          by_cases hj : j = k
          · simp [hj, readCells]
          · have : j ≠ a := by omega
            simp [hj, readCells, this]
      · rw [if_neg hk]
        simp only [readCells]
        by_cases hj : j = a
        · have : j ≠ k := by omega
          simp [hj]; omega
        · rw [if_neg hj, ih h4, if_neg hj]

/-- A write below 2^32 keeps the canonical form. -/
theorem cellsWf_writeCells {l : List Host.Cell} {lo : Nat} (h : cellsWf lo l = true) (k : Nat) (v : Byte) (hk : k < 2 ^ 32)
    (hlo : lo ≤ k) : cellsWf lo (writeCells l k v) = true := by
  induction l generalizing lo with
  | nil =>
    unfold writeCells
    by_cases hv : v = unlistedByte
    · simp [hv, cellsWf]
    · simp only [hv, if_false, cellsWf, Bool.and_eq_true, decide_eq_true_eq]
      exact ⟨⟨⟨hlo, hk⟩, by simpa using hv⟩, trivial⟩
  | cons c rest ih =>
    obtain ⟨a, b⟩ := c
    simp only [cellsWf, Bool.and_eq_true, decide_eq_true_eq] at h
    obtain ⟨⟨⟨h1, h2⟩, h3⟩, h4⟩ := h
    unfold writeCells
    by_cases hka : k < a
    · rw [if_pos hka]
      by_cases hv : v = unlistedByte
      · rw [if_pos hv]
        simp only [cellsWf, Bool.and_eq_true, decide_eq_true_eq]
        exact ⟨⟨⟨h1, h2⟩, h3⟩, h4⟩
      · rw [if_neg hv]
        simp only [cellsWf, Bool.and_eq_true, decide_eq_true_eq]
        exact ⟨⟨⟨hlo, hk⟩, by simpa using hv⟩, ⟨⟨⟨hka, h2⟩, h3⟩, h4⟩⟩
    · rw [if_neg hka]
      by_cases hk' : k = a
      · rw [if_pos hk']
        by_cases hv : v = unlistedByte
        · rw [if_pos hv]; exact cellsWf_mono h4 (by omega)
        · rw [if_neg hv]
          simp only [cellsWf, Bool.and_eq_true, decide_eq_true_eq]
          exact ⟨⟨⟨hlo, hk⟩, by simpa using hv⟩, by rw [hk']; exact h4⟩
      · rw [if_neg hk']
        simp only [cellsWf, Bool.and_eq_true, decide_eq_true_eq]
        exact ⟨⟨⟨h1, h2⟩, h3⟩, ih h4 (by omega)⟩

/-! ### Bytes -/

/-- The canonical form is kept by a byte write. -/
theorem Memory.wf_setByte {m : Memory} (h : m.wf = true) (a : Word) (v : Byte) : (m.setByte a v).wf = true :=
  cellsWf_writeCells h a.toNat v a.isLt (Nat.zero_le _)

/-- A byte read after a byte write. -/
theorem Memory.byteAt_setByte {m : Memory} (h : m.wf = true) (a b : Word) (v : Byte) :
    (m.setByte a v).byteAt b = if b = a then v else m.byteAt b := by
  unfold Memory.byteAt Memory.setByte
  rw [readCells_writeCells h]
  by_cases e : b = a
  · simp [e]
  · have : b.toNat ≠ a.toNat := fun h => e (BitVec.eq_of_toNat_eq h)
    simp [e, this]

/-! ### Halfwords, words and bus writes -/

theorem Memory.wf_setHalf {m : Memory} (h : m.wf = true) (big : Bool) (a : Word) (v : BitVec 16) :
    (m.setHalf big a v).wf = true := by
  cases big <;> exact wf_setByte (wf_setByte h _ _) _ _

theorem Memory.wf_setWord {m : Memory} (h : m.wf = true) (big : Bool) (a v : Word) : (m.setWord big a v).wf = true :=
  wf_setByte (wf_setByte (wf_setByte (wf_setByte h _ _) _ _) _ _) _ _

/-- The canonical form is kept by every bus write. -/
theorem Memory.wf_busStore {m : Memory} (h : m.wf = true) (n : BusSize) (big : Bool) (pa v : Word) :
    (m.busStore n big pa v).wf = true := by
  cases n with
  | byte => exact wf_setByte h _ _
  | half => exact wf_setHalf h _ _ _
  | word => exact wf_setWord h _ _ _

/-- A byte read after a halfword write. -/
theorem Memory.byteAt_setHalf {m : Memory} (h : m.wf = true) (big : Bool) (a b : Word) (v : BitVec 16) :
    (m.setHalf big a v).byteAt b =
      if b = a + 1#32 then (if big then v.extractLsb' 0 8 else v.extractLsb' 8 8)
      else if b = a then (if big then v.extractLsb' 8 8 else v.extractLsb' 0 8)
      else m.byteAt b := by
  cases big
  · simp [Memory.setHalf, byteAt_setByte (wf_setByte h _ _), byteAt_setByte h]
  · simp [Memory.setHalf, byteAt_setByte (wf_setByte h _ _), byteAt_setByte h]

/-- A byte read after a word write. -/
theorem Memory.byteAt_setWord {m : Memory} (h : m.wf = true) (big : Bool) (a b v : Word) :
    (m.setWord big a v).byteAt b =
      if b = a + 3#32 then byteOfWord big v 3
      else if b = a + 2#32 then byteOfWord big v 2
      else if b = a + 1#32 then byteOfWord big v 1
      else if b = a then byteOfWord big v 0
      else m.byteAt b := by
  have h0 := wf_setByte h a (byteOfWord big v 0)
  have h1 := wf_setByte h0 (a + 1#32) (byteOfWord big v 1)
  have h2 := wf_setByte h1 (a + 2#32) (byteOfWord big v 2)
  unfold Memory.setWord
  rw [byteAt_setByte h2, byteAt_setByte h1, byteAt_setByte h0, byteAt_setByte h]

/-- Four bytes of a word put together in the same order are the word. -/
theorem wordOfBytes_byteOfWord (big : Bool) (v : Word) :
    wordOfBytes big (byteOfWord big v 0) (byteOfWord big v 1) (byteOfWord big v 2) (byteOfWord big v 3) = v := by
  apply BitVec.eq_of_getLsbD_eq
  intro k hk
  cases big
  all_goals
    simp only [wordOfBytes, byteOfWord, if_true, if_false, Bool.false_eq_true]
    simp only [BitVec.getLsbD_append, BitVec.getLsbD_extractLsb']
    by_cases k1 : k < 8
    · have : k < 8 := k1
      simp [k1]
    · by_cases k2 : k < 16
      · have a1 : k - 8 < 8 := by omega
        have a2 : 8 + (k - 8) = k := by omega
        simp [k1, a1, a2]
      · by_cases k3 : k < 24
        · have a0 : ¬ k - 8 < 8 := by omega
          have a1 : k - 8 - 8 < 8 := by omega
          have a2 : 16 + (k - 8 - 8) = k := by omega
          simp [k1, a0, a1, a2]
        · have a0 : ¬ k - 8 < 8 := by omega
          have a1 : ¬ k - 8 - 8 < 8 := by omega
          have a2 : k - 8 - 8 - 8 < 8 := by omega
          have a3 : 24 + (k - 8 - 8 - 8) = k := by omega
          simp [k1, a0, a1, a2, a3]

/-- Addresses a constant apart are different. -/
theorem word_add_ne (a : Word) (i j : Word) (h : i ≠ j) : a + i ≠ a + j := fun e => h (by simpa using e)

/-- A word read back after it was written at the same address in the same order (R71). -/
theorem Memory.word_setWord {m : Memory} (h : m.wf = true) (big : Bool) (a v : Word) :
    (m.setWord big a v).word big a = v := by
  have n01 : a ≠ a + 1#32 := by simp
  have n02 : a ≠ a + 2#32 := by simp
  have n03 : a ≠ a + 3#32 := by simp
  have n12 : a + 1#32 ≠ a + 2#32 := word_add_ne a _ _ (by decide)
  have n13 : a + 1#32 ≠ a + 3#32 := word_add_ne a _ _ (by decide)
  have n23 : a + 2#32 ≠ a + 3#32 := word_add_ne a _ _ (by decide)
  unfold Memory.word
  rw [byteAt_setWord h, byteAt_setWord h, byteAt_setWord h, byteAt_setWord h]
  simp only [n01, n02, n03, n12, n13, n23, if_true, if_false]
  exact wordOfBytes_byteOfWord big v

/-- The memory of the reset state is in canonical form. -/
theorem State.reset_mem_wf : State.reset.mem.wf = true := rfl

end Sys2Proof.Machine
end

