-- ==== Sys2Proof/Laws/Bits.lean ====
section
/-! SUPPORT. Lemmas about the fields of a word: one bit or one field written, the rest kept. -/

namespace Sys2Proof.Machine

/-- Bit `j` of a word with bit `i` set: the new bit at `i`, the old bit elsewhere. -/
theorem getLsbD_setBit (w : Word) (i j : Nat) (b : Bool) (hi : i < 32) :
    (setBit w i b).getLsbD j = if j = i then b else w.getLsbD j := by
  unfold setBit
  by_cases hj : j < 32
  · by_cases h : j = i
    · subst h
      cases b <;> simp [hj]
    · have hne : j - i ≠ 0 ∨ j < i := by omega
      have e1 : ((1#32 <<< i).getLsbD j) = false := by
        rw [BitVec.getLsbD_shiftLeft]
        rcases hne with h' | h'
        · simp [BitVec.getLsbD_one, h']
        · simp [h']
      have e2 : (((BitVec.ofBool b).setWidth 32 <<< i).getLsbD j) = false := by
        rw [BitVec.getLsbD_shiftLeft, BitVec.getLsbD_setWidth]
        rcases hne with h' | h'
        · cases b <;> simp [BitVec.getLsbD_one, h']
        · simp [h']
      rw [BitVec.getLsbD_or, BitVec.getLsbD_and, BitVec.getLsbD_not, e1, e2]
      simp [hj, h]
  · have h : j ≠ i := by omega
    simp [h, BitVec.getLsbD_of_ge _ _ (Nat.le_of_not_lt hj)]

theorem getLsbD_setBit_self (w : Word) (i : Nat) (b : Bool) (hi : i < 32) : (setBit w i b).getLsbD i = b := by
  simp [getLsbD_setBit w i i b hi]

theorem getLsbD_setBit_ne (w : Word) (i j : Nat) (b : Bool) (hi : i < 32) (h : j ≠ i) :
    (setBit w i b).getLsbD j = w.getLsbD j := by
  simp [getLsbD_setBit w i j b hi, h]

/-- Bit `j` of a word with the `n`-bit field from bit `lo` set to `v`. -/
theorem getLsbD_setField {n : Nat} (w : Word) (lo j : Nat) (v : BitVec n) (hn : lo + n ≤ 32) :
    (setField w lo v).getLsbD j = if lo ≤ j ∧ j < lo + n then v.getLsbD (j - lo) else w.getLsbD j := by
  unfold setField
  by_cases hj : j < 32
  · rw [BitVec.getLsbD_or, BitVec.getLsbD_and, BitVec.getLsbD_not, BitVec.getLsbD_shiftLeft, BitVec.getLsbD_shiftLeft,
      BitVec.getLsbD_setWidth, BitVec.getLsbD_setWidth, BitVec.getLsbD_allOnes]
    by_cases h1 : lo ≤ j
    · have hlt : ¬ j < lo := by omega
      have hs : j - lo < 32 := by omega
      by_cases h2 : j < lo + n
      · have : j - lo < n := by omega
        simp [hj, hlt, hs, this, h1, h2]
      · have hge : n ≤ j - lo := by omega
        have hz : v.getLsbD (j - lo) = false := BitVec.getLsbD_of_ge _ _ hge
        have : ¬ j - lo < n := by omega
        simp [hj, hz, this, h2]
    · have hlt : j < lo := by omega
      have : ¬ lo ≤ j := h1
      simp [hj, hlt, this]
  · have : ¬ (lo ≤ j ∧ j < lo + n) := by omega
    simp [this, BitVec.getLsbD_of_ge _ _ (Nat.le_of_not_lt hj)]

/-- Two words are equal when their 32 bits are. -/
theorem word_ext {a b : Word} (h : ∀ j, j < 32 → a.getLsbD j = b.getLsbD j) : a = b :=
  BitVec.eq_of_getLsbD_eq fun j hj => h j hj

/-- A bit of a masked write: the new word's where the mask is set, the old word's elsewhere. -/
theorem getLsbD_maskedWrite (mask old new : Word) (j : Nat) (hj : j < 32) :
    (maskedWrite mask old new).getLsbD j = if mask.getLsbD j then new.getLsbD j else old.getLsbD j := by
  unfold maskedWrite
  rw [BitVec.getLsbD_or, BitVec.getLsbD_and, BitVec.getLsbD_and, BitVec.getLsbD_not]
  cases mask.getLsbD j <;> simp [hj]

/-- A masked write keeps the bits outside the mask. -/
theorem maskedWrite_and_not (mask old new : Word) : maskedWrite mask old new &&& ~~~mask = old &&& ~~~mask := by
  apply word_ext
  intro j hj
  rw [BitVec.getLsbD_and, BitVec.getLsbD_and, BitVec.getLsbD_not, getLsbD_maskedWrite _ _ _ _ hj]
  cases h : mask.getLsbD j <;> simp [hj]

/-- The bits of a word kept clear by a mask stay clear when a bit outside the mask's complement is set. -/
theorem setBit_and (w m : Word) (i : Nat) (b : Bool) (hi : i < 32) (hm : m.getLsbD i = false) :
    setBit w i b &&& m = w &&& m := by
  apply word_ext
  intro j _
  rw [BitVec.getLsbD_and, BitVec.getLsbD_and, getLsbD_setBit w i j b hi]
  by_cases h : j = i
  · subst h; simp [hm]
  · simp [h]

/-- The same for a field. -/
theorem setField_and {n : Nat} (w m : Word) (lo : Nat) (v : BitVec n) (hn : lo + n ≤ 32)
    (hm : ∀ j, lo ≤ j → j < lo + n → m.getLsbD j = false) : setField w lo v &&& m = w &&& m := by
  apply word_ext
  intro j _
  rw [BitVec.getLsbD_and, BitVec.getLsbD_and, getLsbD_setField w lo j v hn]
  by_cases h : lo ≤ j ∧ j < lo + n
  · simp [hm j h.1 h.2]
  · rw [if_neg h]

/-- A field of a word outside the bit that is set. -/
theorem extractLsb'_setBit (w : Word) (i lo n : Nat) (b : Bool) (hi : i < 32) (h : i < lo ∨ lo + n ≤ i) :
    (setBit w i b).extractLsb' lo n = w.extractLsb' lo n := by
  apply BitVec.eq_of_getLsbD_eq
  intro j hj
  rw [BitVec.getLsbD_extractLsb', BitVec.getLsbD_extractLsb', getLsbD_setBit w i _ b hi]
  have : lo + j ≠ i := by omega
  simp [this]

/-- The field just set reads as the value it was set to. -/
theorem extractLsb'_setField_self {n : Nat} (w : Word) (lo : Nat) (v : BitVec n) (hn : lo + n ≤ 32) :
    (setField w lo v).extractLsb' lo n = v := by
  apply BitVec.eq_of_getLsbD_eq
  intro j hj
  rw [BitVec.getLsbD_extractLsb', getLsbD_setField w lo _ v hn]
  have h1 : lo ≤ lo + j ∧ lo + j < lo + n := by omega
  have h2 : lo + j - lo = j := by omega
  simp [hj, h1, h2]

/-- A field of a word outside the field that is set. -/
theorem extractLsb'_setField_ne {n : Nat} (w : Word) (lo lo' m : Nat) (v : BitVec n) (hn : lo + n ≤ 32)
    (h : lo' + m ≤ lo ∨ lo + n ≤ lo') : (setField w lo v).extractLsb' lo' m = w.extractLsb' lo' m := by
  apply BitVec.eq_of_getLsbD_eq
  intro j hj
  rw [BitVec.getLsbD_extractLsb', BitVec.getLsbD_extractLsb', getLsbD_setField w lo _ v hn]
  have : ¬ (lo ≤ lo' + j ∧ lo' + j < lo + n) := by omega
  simp [this]

end Sys2Proof.Machine
end

