-- ==== Sys2Proof/Laws/State.lean ====
section
/-! SUPPORT. The small lemmas of State: for each update, what each field it does not write holds (true by unfolding once), and the
registers and flags read back after a write. -/

namespace Sys2Proof.Machine

-- setX
@[simp] theorem State.setX_fpr (s : State) (i : Reg) (v : Word) : (s.setX i v).fpr = s.fpr := rfl
@[simp] theorem State.setX_pc (s : State) (i : Reg) (v : Word) : (s.setX i v).pc = s.pc := rfl
@[simp] theorem State.setX_fir (s : State) (i : Reg) (v : Word) : (s.setX i v).fir = s.fir := rfl
@[simp] theorem State.setX_psr (s : State) (i : Reg) (v : Word) : (s.setX i v).psr = s.psr := rfl
@[simp] theorem State.setX_dirbase (s : State) (i : Reg) (v : Word) : (s.setX i v).dirbase = s.dirbase := rfl
@[simp] theorem State.setX_db (s : State) (i : Reg) (v : Word) : (s.setX i v).db = s.db := rfl
@[simp] theorem State.setX_fsr (s : State) (i : Reg) (v : Word) : (s.setX i v).fsr = s.fsr := rfl
@[simp] theorem State.setX_epsr (s : State) (i : Reg) (v : Word) : (s.setX i v).epsr = s.epsr := rfl
@[simp] theorem State.setX_kr (s : State) (i : Reg) (v : Word) : (s.setX i v).kr = s.kr := rfl
@[simp] theorem State.setX_ki (s : State) (i : Reg) (v : Word) : (s.setX i v).ki = s.ki := rfl
@[simp] theorem State.setX_t (s : State) (i : Reg) (v : Word) : (s.setX i v).t = s.t := rfl
@[simp] theorem State.setX_merge (s : State) (i : Reg) (v : Word) : (s.setX i v).merge = s.merge := rfl
@[simp] theorem State.setX_adder (s : State) (i : Reg) (v : Word) : (s.setX i v).adder = s.adder := rfl
@[simp] theorem State.setX_multiplier (s : State) (i : Reg) (v : Word) : (s.setX i v).multiplier = s.multiplier := rfl
@[simp] theorem State.setX_loader (s : State) (i : Reg) (v : Word) : (s.setX i v).loader = s.loader := rfl
@[simp] theorem State.setX_graphics (s : State) (i : Reg) (v : Word) : (s.setX i v).graphics = s.graphics := rfl
@[simp] theorem State.setX_pendSync (s : State) (i : Reg) (v : Word) : (s.setX i v).pendSync = s.pendSync := rfl
@[simp] theorem State.setX_pendDslot (s : State) (i : Reg) (v : Word) : (s.setX i v).pendDslot = s.pendDslot := rfl
@[simp] theorem State.setX_pendExt (s : State) (i : Reg) (v : Word) : (s.setX i v).pendExt = s.pendExt := rfl
@[simp] theorem State.setX_firTrap (s : State) (i : Reg) (v : Word) : (s.setX i v).firTrap = s.firTrap := rfl
@[simp] theorem State.setX_dslotTarget (s : State) (i : Reg) (v : Word) : (s.setX i v).dslotTarget = s.dslotTarget := rfl
@[simp] theorem State.setX_trapInfo (s : State) (i : Reg) (v : Word) : (s.setX i v).trapInfo = s.trapInfo := rfl
@[simp] theorem State.setX_intPin (s : State) (i : Reg) (v : Word) : (s.setX i v).intPin = s.intPin := rfl
@[simp] theorem State.setX_holdPin (s : State) (i : Reg) (v : Word) : (s.setX i v).holdPin = s.holdPin := rfl
@[simp] theorem State.setX_resetPin (s : State) (i : Reg) (v : Word) : (s.setX i v).resetPin = s.resetPin := rfl
@[simp] theorem State.setX_mem (s : State) (i : Reg) (v : Word) : (s.setX i v).mem = s.mem := rfl
@[simp] theorem State.setX_bus (s : State) (i : Reg) (v : Word) : (s.setX i v).bus = s.bus := rfl
@[simp] theorem State.setX_freeCount (s : State) (i : Reg) (v : Word) : (s.setX i v).freeCount = s.freeCount := rfl
@[simp] theorem State.setX_fetched (s : State) (i : Reg) (v : Word) : (s.setX i v).fetched = s.fetched := rfl
@[simp] theorem State.setX_params (s : State) (i : Reg) (v : Word) : (s.setX i v).params = s.params := rfl
-- setF
@[simp] theorem State.setF_gpr (s : State) (i : Reg) (v : Word) : (s.setF i v).gpr = s.gpr := rfl
@[simp] theorem State.setF_pc (s : State) (i : Reg) (v : Word) : (s.setF i v).pc = s.pc := rfl
@[simp] theorem State.setF_fir (s : State) (i : Reg) (v : Word) : (s.setF i v).fir = s.fir := rfl
@[simp] theorem State.setF_psr (s : State) (i : Reg) (v : Word) : (s.setF i v).psr = s.psr := rfl
@[simp] theorem State.setF_dirbase (s : State) (i : Reg) (v : Word) : (s.setF i v).dirbase = s.dirbase := rfl
@[simp] theorem State.setF_db (s : State) (i : Reg) (v : Word) : (s.setF i v).db = s.db := rfl
@[simp] theorem State.setF_fsr (s : State) (i : Reg) (v : Word) : (s.setF i v).fsr = s.fsr := rfl
@[simp] theorem State.setF_epsr (s : State) (i : Reg) (v : Word) : (s.setF i v).epsr = s.epsr := rfl
@[simp] theorem State.setF_kr (s : State) (i : Reg) (v : Word) : (s.setF i v).kr = s.kr := rfl
@[simp] theorem State.setF_ki (s : State) (i : Reg) (v : Word) : (s.setF i v).ki = s.ki := rfl
@[simp] theorem State.setF_t (s : State) (i : Reg) (v : Word) : (s.setF i v).t = s.t := rfl
@[simp] theorem State.setF_merge (s : State) (i : Reg) (v : Word) : (s.setF i v).merge = s.merge := rfl
@[simp] theorem State.setF_adder (s : State) (i : Reg) (v : Word) : (s.setF i v).adder = s.adder := rfl
@[simp] theorem State.setF_multiplier (s : State) (i : Reg) (v : Word) : (s.setF i v).multiplier = s.multiplier := rfl
@[simp] theorem State.setF_loader (s : State) (i : Reg) (v : Word) : (s.setF i v).loader = s.loader := rfl
@[simp] theorem State.setF_graphics (s : State) (i : Reg) (v : Word) : (s.setF i v).graphics = s.graphics := rfl
@[simp] theorem State.setF_pendSync (s : State) (i : Reg) (v : Word) : (s.setF i v).pendSync = s.pendSync := rfl
@[simp] theorem State.setF_pendDslot (s : State) (i : Reg) (v : Word) : (s.setF i v).pendDslot = s.pendDslot := rfl
@[simp] theorem State.setF_pendExt (s : State) (i : Reg) (v : Word) : (s.setF i v).pendExt = s.pendExt := rfl
@[simp] theorem State.setF_firTrap (s : State) (i : Reg) (v : Word) : (s.setF i v).firTrap = s.firTrap := rfl
@[simp] theorem State.setF_dslotTarget (s : State) (i : Reg) (v : Word) : (s.setF i v).dslotTarget = s.dslotTarget := rfl
@[simp] theorem State.setF_trapInfo (s : State) (i : Reg) (v : Word) : (s.setF i v).trapInfo = s.trapInfo := rfl
@[simp] theorem State.setF_intPin (s : State) (i : Reg) (v : Word) : (s.setF i v).intPin = s.intPin := rfl
@[simp] theorem State.setF_holdPin (s : State) (i : Reg) (v : Word) : (s.setF i v).holdPin = s.holdPin := rfl
@[simp] theorem State.setF_resetPin (s : State) (i : Reg) (v : Word) : (s.setF i v).resetPin = s.resetPin := rfl
@[simp] theorem State.setF_mem (s : State) (i : Reg) (v : Word) : (s.setF i v).mem = s.mem := rfl
@[simp] theorem State.setF_bus (s : State) (i : Reg) (v : Word) : (s.setF i v).bus = s.bus := rfl
@[simp] theorem State.setF_freeCount (s : State) (i : Reg) (v : Word) : (s.setF i v).freeCount = s.freeCount := rfl
@[simp] theorem State.setF_fetched (s : State) (i : Reg) (v : Word) : (s.setF i v).fetched = s.fetched := rfl
@[simp] theorem State.setF_params (s : State) (i : Reg) (v : Word) : (s.setF i v).params = s.params := rfl
-- setCC
@[simp] theorem State.setCC_gpr (s : State) (b : Bool) : (s.setCC b).gpr = s.gpr := rfl
@[simp] theorem State.setCC_fpr (s : State) (b : Bool) : (s.setCC b).fpr = s.fpr := rfl
@[simp] theorem State.setCC_pc (s : State) (b : Bool) : (s.setCC b).pc = s.pc := rfl
@[simp] theorem State.setCC_fir (s : State) (b : Bool) : (s.setCC b).fir = s.fir := rfl
@[simp] theorem State.setCC_dirbase (s : State) (b : Bool) : (s.setCC b).dirbase = s.dirbase := rfl
@[simp] theorem State.setCC_db (s : State) (b : Bool) : (s.setCC b).db = s.db := rfl
@[simp] theorem State.setCC_fsr (s : State) (b : Bool) : (s.setCC b).fsr = s.fsr := rfl
@[simp] theorem State.setCC_epsr (s : State) (b : Bool) : (s.setCC b).epsr = s.epsr := rfl
@[simp] theorem State.setCC_kr (s : State) (b : Bool) : (s.setCC b).kr = s.kr := rfl
@[simp] theorem State.setCC_ki (s : State) (b : Bool) : (s.setCC b).ki = s.ki := rfl
@[simp] theorem State.setCC_t (s : State) (b : Bool) : (s.setCC b).t = s.t := rfl
@[simp] theorem State.setCC_merge (s : State) (b : Bool) : (s.setCC b).merge = s.merge := rfl
@[simp] theorem State.setCC_adder (s : State) (b : Bool) : (s.setCC b).adder = s.adder := rfl
@[simp] theorem State.setCC_multiplier (s : State) (b : Bool) : (s.setCC b).multiplier = s.multiplier := rfl
@[simp] theorem State.setCC_loader (s : State) (b : Bool) : (s.setCC b).loader = s.loader := rfl
@[simp] theorem State.setCC_graphics (s : State) (b : Bool) : (s.setCC b).graphics = s.graphics := rfl
@[simp] theorem State.setCC_pendSync (s : State) (b : Bool) : (s.setCC b).pendSync = s.pendSync := rfl
@[simp] theorem State.setCC_pendDslot (s : State) (b : Bool) : (s.setCC b).pendDslot = s.pendDslot := rfl
@[simp] theorem State.setCC_pendExt (s : State) (b : Bool) : (s.setCC b).pendExt = s.pendExt := rfl
@[simp] theorem State.setCC_firTrap (s : State) (b : Bool) : (s.setCC b).firTrap = s.firTrap := rfl
@[simp] theorem State.setCC_dslotTarget (s : State) (b : Bool) : (s.setCC b).dslotTarget = s.dslotTarget := rfl
@[simp] theorem State.setCC_trapInfo (s : State) (b : Bool) : (s.setCC b).trapInfo = s.trapInfo := rfl
@[simp] theorem State.setCC_intPin (s : State) (b : Bool) : (s.setCC b).intPin = s.intPin := rfl
@[simp] theorem State.setCC_holdPin (s : State) (b : Bool) : (s.setCC b).holdPin = s.holdPin := rfl
@[simp] theorem State.setCC_resetPin (s : State) (b : Bool) : (s.setCC b).resetPin = s.resetPin := rfl
@[simp] theorem State.setCC_mem (s : State) (b : Bool) : (s.setCC b).mem = s.mem := rfl
@[simp] theorem State.setCC_bus (s : State) (b : Bool) : (s.setCC b).bus = s.bus := rfl
@[simp] theorem State.setCC_freeCount (s : State) (b : Bool) : (s.setCC b).freeCount = s.freeCount := rfl
@[simp] theorem State.setCC_fetched (s : State) (b : Bool) : (s.setCC b).fetched = s.fetched := rfl
@[simp] theorem State.setCC_params (s : State) (b : Bool) : (s.setCC b).params = s.params := rfl
-- setLCC
@[simp] theorem State.setLCC_gpr (s : State) (b : Bool) : (s.setLCC b).gpr = s.gpr := rfl
@[simp] theorem State.setLCC_fpr (s : State) (b : Bool) : (s.setLCC b).fpr = s.fpr := rfl
@[simp] theorem State.setLCC_pc (s : State) (b : Bool) : (s.setLCC b).pc = s.pc := rfl
@[simp] theorem State.setLCC_fir (s : State) (b : Bool) : (s.setLCC b).fir = s.fir := rfl
@[simp] theorem State.setLCC_dirbase (s : State) (b : Bool) : (s.setLCC b).dirbase = s.dirbase := rfl
@[simp] theorem State.setLCC_db (s : State) (b : Bool) : (s.setLCC b).db = s.db := rfl
@[simp] theorem State.setLCC_fsr (s : State) (b : Bool) : (s.setLCC b).fsr = s.fsr := rfl
@[simp] theorem State.setLCC_epsr (s : State) (b : Bool) : (s.setLCC b).epsr = s.epsr := rfl
@[simp] theorem State.setLCC_kr (s : State) (b : Bool) : (s.setLCC b).kr = s.kr := rfl
@[simp] theorem State.setLCC_ki (s : State) (b : Bool) : (s.setLCC b).ki = s.ki := rfl
@[simp] theorem State.setLCC_t (s : State) (b : Bool) : (s.setLCC b).t = s.t := rfl
@[simp] theorem State.setLCC_merge (s : State) (b : Bool) : (s.setLCC b).merge = s.merge := rfl
@[simp] theorem State.setLCC_adder (s : State) (b : Bool) : (s.setLCC b).adder = s.adder := rfl
@[simp] theorem State.setLCC_multiplier (s : State) (b : Bool) : (s.setLCC b).multiplier = s.multiplier := rfl
@[simp] theorem State.setLCC_loader (s : State) (b : Bool) : (s.setLCC b).loader = s.loader := rfl
@[simp] theorem State.setLCC_graphics (s : State) (b : Bool) : (s.setLCC b).graphics = s.graphics := rfl
@[simp] theorem State.setLCC_pendSync (s : State) (b : Bool) : (s.setLCC b).pendSync = s.pendSync := rfl
@[simp] theorem State.setLCC_pendDslot (s : State) (b : Bool) : (s.setLCC b).pendDslot = s.pendDslot := rfl
@[simp] theorem State.setLCC_pendExt (s : State) (b : Bool) : (s.setLCC b).pendExt = s.pendExt := rfl
@[simp] theorem State.setLCC_firTrap (s : State) (b : Bool) : (s.setLCC b).firTrap = s.firTrap := rfl
@[simp] theorem State.setLCC_dslotTarget (s : State) (b : Bool) : (s.setLCC b).dslotTarget = s.dslotTarget := rfl
@[simp] theorem State.setLCC_trapInfo (s : State) (b : Bool) : (s.setLCC b).trapInfo = s.trapInfo := rfl
@[simp] theorem State.setLCC_intPin (s : State) (b : Bool) : (s.setLCC b).intPin = s.intPin := rfl
@[simp] theorem State.setLCC_holdPin (s : State) (b : Bool) : (s.setLCC b).holdPin = s.holdPin := rfl
@[simp] theorem State.setLCC_resetPin (s : State) (b : Bool) : (s.setLCC b).resetPin = s.resetPin := rfl
@[simp] theorem State.setLCC_mem (s : State) (b : Bool) : (s.setLCC b).mem = s.mem := rfl
@[simp] theorem State.setLCC_bus (s : State) (b : Bool) : (s.setLCC b).bus = s.bus := rfl
@[simp] theorem State.setLCC_freeCount (s : State) (b : Bool) : (s.setLCC b).freeCount = s.freeCount := rfl
@[simp] theorem State.setLCC_fetched (s : State) (b : Bool) : (s.setLCC b).fetched = s.fetched := rfl
@[simp] theorem State.setLCC_params (s : State) (b : Bool) : (s.setLCC b).params = s.params := rfl
-- clearKNF
@[simp] theorem State.clearKNF_gpr (s : State) : (s.clearKNF).gpr = s.gpr := rfl
@[simp] theorem State.clearKNF_fpr (s : State) : (s.clearKNF).fpr = s.fpr := rfl
@[simp] theorem State.clearKNF_pc (s : State) : (s.clearKNF).pc = s.pc := rfl
@[simp] theorem State.clearKNF_fir (s : State) : (s.clearKNF).fir = s.fir := rfl
@[simp] theorem State.clearKNF_dirbase (s : State) : (s.clearKNF).dirbase = s.dirbase := rfl
@[simp] theorem State.clearKNF_db (s : State) : (s.clearKNF).db = s.db := rfl
@[simp] theorem State.clearKNF_fsr (s : State) : (s.clearKNF).fsr = s.fsr := rfl
@[simp] theorem State.clearKNF_epsr (s : State) : (s.clearKNF).epsr = s.epsr := rfl
@[simp] theorem State.clearKNF_kr (s : State) : (s.clearKNF).kr = s.kr := rfl
@[simp] theorem State.clearKNF_ki (s : State) : (s.clearKNF).ki = s.ki := rfl
@[simp] theorem State.clearKNF_t (s : State) : (s.clearKNF).t = s.t := rfl
@[simp] theorem State.clearKNF_merge (s : State) : (s.clearKNF).merge = s.merge := rfl
@[simp] theorem State.clearKNF_adder (s : State) : (s.clearKNF).adder = s.adder := rfl
@[simp] theorem State.clearKNF_multiplier (s : State) : (s.clearKNF).multiplier = s.multiplier := rfl
@[simp] theorem State.clearKNF_loader (s : State) : (s.clearKNF).loader = s.loader := rfl
@[simp] theorem State.clearKNF_graphics (s : State) : (s.clearKNF).graphics = s.graphics := rfl
@[simp] theorem State.clearKNF_pendSync (s : State) : (s.clearKNF).pendSync = s.pendSync := rfl
@[simp] theorem State.clearKNF_pendDslot (s : State) : (s.clearKNF).pendDslot = s.pendDslot := rfl
@[simp] theorem State.clearKNF_pendExt (s : State) : (s.clearKNF).pendExt = s.pendExt := rfl
@[simp] theorem State.clearKNF_firTrap (s : State) : (s.clearKNF).firTrap = s.firTrap := rfl
@[simp] theorem State.clearKNF_dslotTarget (s : State) : (s.clearKNF).dslotTarget = s.dslotTarget := rfl
@[simp] theorem State.clearKNF_trapInfo (s : State) : (s.clearKNF).trapInfo = s.trapInfo := rfl
@[simp] theorem State.clearKNF_intPin (s : State) : (s.clearKNF).intPin = s.intPin := rfl
@[simp] theorem State.clearKNF_holdPin (s : State) : (s.clearKNF).holdPin = s.holdPin := rfl
@[simp] theorem State.clearKNF_resetPin (s : State) : (s.clearKNF).resetPin = s.resetPin := rfl
@[simp] theorem State.clearKNF_mem (s : State) : (s.clearKNF).mem = s.mem := rfl
@[simp] theorem State.clearKNF_bus (s : State) : (s.clearKNF).bus = s.bus := rfl
@[simp] theorem State.clearKNF_freeCount (s : State) : (s.clearKNF).freeCount = s.freeCount := rfl
@[simp] theorem State.clearKNF_fetched (s : State) : (s.clearKNF).fetched = s.fetched := rfl
@[simp] theorem State.clearKNF_params (s : State) : (s.clearKNF).params = s.params := rfl
-- setSC
@[simp] theorem State.setSC_gpr (s : State) (v : BitVec 5) : (s.setSC v).gpr = s.gpr := rfl
@[simp] theorem State.setSC_fpr (s : State) (v : BitVec 5) : (s.setSC v).fpr = s.fpr := rfl
@[simp] theorem State.setSC_pc (s : State) (v : BitVec 5) : (s.setSC v).pc = s.pc := rfl
@[simp] theorem State.setSC_fir (s : State) (v : BitVec 5) : (s.setSC v).fir = s.fir := rfl
@[simp] theorem State.setSC_dirbase (s : State) (v : BitVec 5) : (s.setSC v).dirbase = s.dirbase := rfl
@[simp] theorem State.setSC_db (s : State) (v : BitVec 5) : (s.setSC v).db = s.db := rfl
@[simp] theorem State.setSC_fsr (s : State) (v : BitVec 5) : (s.setSC v).fsr = s.fsr := rfl
@[simp] theorem State.setSC_epsr (s : State) (v : BitVec 5) : (s.setSC v).epsr = s.epsr := rfl
@[simp] theorem State.setSC_kr (s : State) (v : BitVec 5) : (s.setSC v).kr = s.kr := rfl
@[simp] theorem State.setSC_ki (s : State) (v : BitVec 5) : (s.setSC v).ki = s.ki := rfl
@[simp] theorem State.setSC_t (s : State) (v : BitVec 5) : (s.setSC v).t = s.t := rfl
@[simp] theorem State.setSC_merge (s : State) (v : BitVec 5) : (s.setSC v).merge = s.merge := rfl
@[simp] theorem State.setSC_adder (s : State) (v : BitVec 5) : (s.setSC v).adder = s.adder := rfl
@[simp] theorem State.setSC_multiplier (s : State) (v : BitVec 5) : (s.setSC v).multiplier = s.multiplier := rfl
@[simp] theorem State.setSC_loader (s : State) (v : BitVec 5) : (s.setSC v).loader = s.loader := rfl
@[simp] theorem State.setSC_graphics (s : State) (v : BitVec 5) : (s.setSC v).graphics = s.graphics := rfl
@[simp] theorem State.setSC_pendSync (s : State) (v : BitVec 5) : (s.setSC v).pendSync = s.pendSync := rfl
@[simp] theorem State.setSC_pendDslot (s : State) (v : BitVec 5) : (s.setSC v).pendDslot = s.pendDslot := rfl
@[simp] theorem State.setSC_pendExt (s : State) (v : BitVec 5) : (s.setSC v).pendExt = s.pendExt := rfl
@[simp] theorem State.setSC_firTrap (s : State) (v : BitVec 5) : (s.setSC v).firTrap = s.firTrap := rfl
@[simp] theorem State.setSC_dslotTarget (s : State) (v : BitVec 5) : (s.setSC v).dslotTarget = s.dslotTarget := rfl
@[simp] theorem State.setSC_trapInfo (s : State) (v : BitVec 5) : (s.setSC v).trapInfo = s.trapInfo := rfl
@[simp] theorem State.setSC_intPin (s : State) (v : BitVec 5) : (s.setSC v).intPin = s.intPin := rfl
@[simp] theorem State.setSC_holdPin (s : State) (v : BitVec 5) : (s.setSC v).holdPin = s.holdPin := rfl
@[simp] theorem State.setSC_resetPin (s : State) (v : BitVec 5) : (s.setSC v).resetPin = s.resetPin := rfl
@[simp] theorem State.setSC_mem (s : State) (v : BitVec 5) : (s.setSC v).mem = s.mem := rfl
@[simp] theorem State.setSC_bus (s : State) (v : BitVec 5) : (s.setSC v).bus = s.bus := rfl
@[simp] theorem State.setSC_freeCount (s : State) (v : BitVec 5) : (s.setSC v).freeCount = s.freeCount := rfl
@[simp] theorem State.setSC_fetched (s : State) (v : BitVec 5) : (s.setSC v).fetched = s.fetched := rfl
@[simp] theorem State.setSC_params (s : State) (v : BitVec 5) : (s.setSC v).params = s.params := rfl
-- setPM
@[simp] theorem State.setPM_gpr (s : State) (v : BitVec 8) : (s.setPM v).gpr = s.gpr := rfl
@[simp] theorem State.setPM_fpr (s : State) (v : BitVec 8) : (s.setPM v).fpr = s.fpr := rfl
@[simp] theorem State.setPM_pc (s : State) (v : BitVec 8) : (s.setPM v).pc = s.pc := rfl
@[simp] theorem State.setPM_fir (s : State) (v : BitVec 8) : (s.setPM v).fir = s.fir := rfl
@[simp] theorem State.setPM_dirbase (s : State) (v : BitVec 8) : (s.setPM v).dirbase = s.dirbase := rfl
@[simp] theorem State.setPM_db (s : State) (v : BitVec 8) : (s.setPM v).db = s.db := rfl
@[simp] theorem State.setPM_fsr (s : State) (v : BitVec 8) : (s.setPM v).fsr = s.fsr := rfl
@[simp] theorem State.setPM_epsr (s : State) (v : BitVec 8) : (s.setPM v).epsr = s.epsr := rfl
@[simp] theorem State.setPM_kr (s : State) (v : BitVec 8) : (s.setPM v).kr = s.kr := rfl
@[simp] theorem State.setPM_ki (s : State) (v : BitVec 8) : (s.setPM v).ki = s.ki := rfl
@[simp] theorem State.setPM_t (s : State) (v : BitVec 8) : (s.setPM v).t = s.t := rfl
@[simp] theorem State.setPM_merge (s : State) (v : BitVec 8) : (s.setPM v).merge = s.merge := rfl
@[simp] theorem State.setPM_adder (s : State) (v : BitVec 8) : (s.setPM v).adder = s.adder := rfl
@[simp] theorem State.setPM_multiplier (s : State) (v : BitVec 8) : (s.setPM v).multiplier = s.multiplier := rfl
@[simp] theorem State.setPM_loader (s : State) (v : BitVec 8) : (s.setPM v).loader = s.loader := rfl
@[simp] theorem State.setPM_graphics (s : State) (v : BitVec 8) : (s.setPM v).graphics = s.graphics := rfl
@[simp] theorem State.setPM_pendSync (s : State) (v : BitVec 8) : (s.setPM v).pendSync = s.pendSync := rfl
@[simp] theorem State.setPM_pendDslot (s : State) (v : BitVec 8) : (s.setPM v).pendDslot = s.pendDslot := rfl
@[simp] theorem State.setPM_pendExt (s : State) (v : BitVec 8) : (s.setPM v).pendExt = s.pendExt := rfl
@[simp] theorem State.setPM_firTrap (s : State) (v : BitVec 8) : (s.setPM v).firTrap = s.firTrap := rfl
@[simp] theorem State.setPM_dslotTarget (s : State) (v : BitVec 8) : (s.setPM v).dslotTarget = s.dslotTarget := rfl
@[simp] theorem State.setPM_trapInfo (s : State) (v : BitVec 8) : (s.setPM v).trapInfo = s.trapInfo := rfl
@[simp] theorem State.setPM_intPin (s : State) (v : BitVec 8) : (s.setPM v).intPin = s.intPin := rfl
@[simp] theorem State.setPM_holdPin (s : State) (v : BitVec 8) : (s.setPM v).holdPin = s.holdPin := rfl
@[simp] theorem State.setPM_resetPin (s : State) (v : BitVec 8) : (s.setPM v).resetPin = s.resetPin := rfl
@[simp] theorem State.setPM_mem (s : State) (v : BitVec 8) : (s.setPM v).mem = s.mem := rfl
@[simp] theorem State.setPM_bus (s : State) (v : BitVec 8) : (s.setPM v).bus = s.bus := rfl
@[simp] theorem State.setPM_freeCount (s : State) (v : BitVec 8) : (s.setPM v).freeCount = s.freeCount := rfl
@[simp] theorem State.setPM_fetched (s : State) (v : BitVec 8) : (s.setPM v).fetched = s.fetched := rfl
@[simp] theorem State.setPM_params (s : State) (v : BitVec 8) : (s.setPM v).params = s.params := rfl
-- setBL
@[simp] theorem State.setBL_gpr (s : State) (b : Bool) : (s.setBL b).gpr = s.gpr := rfl
@[simp] theorem State.setBL_fpr (s : State) (b : Bool) : (s.setBL b).fpr = s.fpr := rfl
@[simp] theorem State.setBL_pc (s : State) (b : Bool) : (s.setBL b).pc = s.pc := rfl
@[simp] theorem State.setBL_fir (s : State) (b : Bool) : (s.setBL b).fir = s.fir := rfl
@[simp] theorem State.setBL_psr (s : State) (b : Bool) : (s.setBL b).psr = s.psr := rfl
@[simp] theorem State.setBL_db (s : State) (b : Bool) : (s.setBL b).db = s.db := rfl
@[simp] theorem State.setBL_fsr (s : State) (b : Bool) : (s.setBL b).fsr = s.fsr := rfl
@[simp] theorem State.setBL_epsr (s : State) (b : Bool) : (s.setBL b).epsr = s.epsr := rfl
@[simp] theorem State.setBL_kr (s : State) (b : Bool) : (s.setBL b).kr = s.kr := rfl
@[simp] theorem State.setBL_ki (s : State) (b : Bool) : (s.setBL b).ki = s.ki := rfl
@[simp] theorem State.setBL_t (s : State) (b : Bool) : (s.setBL b).t = s.t := rfl
@[simp] theorem State.setBL_merge (s : State) (b : Bool) : (s.setBL b).merge = s.merge := rfl
@[simp] theorem State.setBL_adder (s : State) (b : Bool) : (s.setBL b).adder = s.adder := rfl
@[simp] theorem State.setBL_multiplier (s : State) (b : Bool) : (s.setBL b).multiplier = s.multiplier := rfl
@[simp] theorem State.setBL_loader (s : State) (b : Bool) : (s.setBL b).loader = s.loader := rfl
@[simp] theorem State.setBL_graphics (s : State) (b : Bool) : (s.setBL b).graphics = s.graphics := rfl
@[simp] theorem State.setBL_pendSync (s : State) (b : Bool) : (s.setBL b).pendSync = s.pendSync := rfl
@[simp] theorem State.setBL_pendDslot (s : State) (b : Bool) : (s.setBL b).pendDslot = s.pendDslot := rfl
@[simp] theorem State.setBL_pendExt (s : State) (b : Bool) : (s.setBL b).pendExt = s.pendExt := rfl
@[simp] theorem State.setBL_firTrap (s : State) (b : Bool) : (s.setBL b).firTrap = s.firTrap := rfl
@[simp] theorem State.setBL_dslotTarget (s : State) (b : Bool) : (s.setBL b).dslotTarget = s.dslotTarget := rfl
@[simp] theorem State.setBL_trapInfo (s : State) (b : Bool) : (s.setBL b).trapInfo = s.trapInfo := rfl
@[simp] theorem State.setBL_intPin (s : State) (b : Bool) : (s.setBL b).intPin = s.intPin := rfl
@[simp] theorem State.setBL_holdPin (s : State) (b : Bool) : (s.setBL b).holdPin = s.holdPin := rfl
@[simp] theorem State.setBL_resetPin (s : State) (b : Bool) : (s.setBL b).resetPin = s.resetPin := rfl
@[simp] theorem State.setBL_mem (s : State) (b : Bool) : (s.setBL b).mem = s.mem := rfl
@[simp] theorem State.setBL_bus (s : State) (b : Bool) : (s.setBL b).bus = s.bus := rfl
@[simp] theorem State.setBL_freeCount (s : State) (b : Bool) : (s.setBL b).freeCount = s.freeCount := rfl
@[simp] theorem State.setBL_fetched (s : State) (b : Bool) : (s.setBL b).fetched = s.fetched := rfl
@[simp] theorem State.setBL_params (s : State) (b : Bool) : (s.setBL b).params = s.params := rfl
-- setSE
@[simp] theorem State.setSE_gpr (s : State) (b : Bool) : (s.setSE b).gpr = s.gpr := rfl
@[simp] theorem State.setSE_fpr (s : State) (b : Bool) : (s.setSE b).fpr = s.fpr := rfl
@[simp] theorem State.setSE_pc (s : State) (b : Bool) : (s.setSE b).pc = s.pc := rfl
@[simp] theorem State.setSE_fir (s : State) (b : Bool) : (s.setSE b).fir = s.fir := rfl
@[simp] theorem State.setSE_psr (s : State) (b : Bool) : (s.setSE b).psr = s.psr := rfl
@[simp] theorem State.setSE_dirbase (s : State) (b : Bool) : (s.setSE b).dirbase = s.dirbase := rfl
@[simp] theorem State.setSE_db (s : State) (b : Bool) : (s.setSE b).db = s.db := rfl
@[simp] theorem State.setSE_epsr (s : State) (b : Bool) : (s.setSE b).epsr = s.epsr := rfl
@[simp] theorem State.setSE_kr (s : State) (b : Bool) : (s.setSE b).kr = s.kr := rfl
@[simp] theorem State.setSE_ki (s : State) (b : Bool) : (s.setSE b).ki = s.ki := rfl
@[simp] theorem State.setSE_t (s : State) (b : Bool) : (s.setSE b).t = s.t := rfl
@[simp] theorem State.setSE_merge (s : State) (b : Bool) : (s.setSE b).merge = s.merge := rfl
@[simp] theorem State.setSE_adder (s : State) (b : Bool) : (s.setSE b).adder = s.adder := rfl
@[simp] theorem State.setSE_multiplier (s : State) (b : Bool) : (s.setSE b).multiplier = s.multiplier := rfl
@[simp] theorem State.setSE_loader (s : State) (b : Bool) : (s.setSE b).loader = s.loader := rfl
@[simp] theorem State.setSE_graphics (s : State) (b : Bool) : (s.setSE b).graphics = s.graphics := rfl
@[simp] theorem State.setSE_pendSync (s : State) (b : Bool) : (s.setSE b).pendSync = s.pendSync := rfl
@[simp] theorem State.setSE_pendDslot (s : State) (b : Bool) : (s.setSE b).pendDslot = s.pendDslot := rfl
@[simp] theorem State.setSE_pendExt (s : State) (b : Bool) : (s.setSE b).pendExt = s.pendExt := rfl
@[simp] theorem State.setSE_firTrap (s : State) (b : Bool) : (s.setSE b).firTrap = s.firTrap := rfl
@[simp] theorem State.setSE_dslotTarget (s : State) (b : Bool) : (s.setSE b).dslotTarget = s.dslotTarget := rfl
@[simp] theorem State.setSE_trapInfo (s : State) (b : Bool) : (s.setSE b).trapInfo = s.trapInfo := rfl
@[simp] theorem State.setSE_intPin (s : State) (b : Bool) : (s.setSE b).intPin = s.intPin := rfl
@[simp] theorem State.setSE_holdPin (s : State) (b : Bool) : (s.setSE b).holdPin = s.holdPin := rfl
@[simp] theorem State.setSE_resetPin (s : State) (b : Bool) : (s.setSE b).resetPin = s.resetPin := rfl
@[simp] theorem State.setSE_mem (s : State) (b : Bool) : (s.setSE b).mem = s.mem := rfl
@[simp] theorem State.setSE_bus (s : State) (b : Bool) : (s.setSE b).bus = s.bus := rfl
@[simp] theorem State.setSE_freeCount (s : State) (b : Bool) : (s.setSE b).freeCount = s.freeCount := rfl
@[simp] theorem State.setSE_fetched (s : State) (b : Bool) : (s.setSE b).fetched = s.fetched := rfl
@[simp] theorem State.setSE_params (s : State) (b : Bool) : (s.setSE b).params = s.params := rfl
-- setOF
@[simp] theorem State.setOF_gpr (s : State) (b : Bool) : (s.setOF b).gpr = s.gpr := rfl
@[simp] theorem State.setOF_fpr (s : State) (b : Bool) : (s.setOF b).fpr = s.fpr := rfl
@[simp] theorem State.setOF_pc (s : State) (b : Bool) : (s.setOF b).pc = s.pc := rfl
@[simp] theorem State.setOF_fir (s : State) (b : Bool) : (s.setOF b).fir = s.fir := rfl
@[simp] theorem State.setOF_psr (s : State) (b : Bool) : (s.setOF b).psr = s.psr := rfl
@[simp] theorem State.setOF_dirbase (s : State) (b : Bool) : (s.setOF b).dirbase = s.dirbase := rfl
@[simp] theorem State.setOF_db (s : State) (b : Bool) : (s.setOF b).db = s.db := rfl
@[simp] theorem State.setOF_fsr (s : State) (b : Bool) : (s.setOF b).fsr = s.fsr := rfl
@[simp] theorem State.setOF_kr (s : State) (b : Bool) : (s.setOF b).kr = s.kr := rfl
@[simp] theorem State.setOF_ki (s : State) (b : Bool) : (s.setOF b).ki = s.ki := rfl
@[simp] theorem State.setOF_t (s : State) (b : Bool) : (s.setOF b).t = s.t := rfl
@[simp] theorem State.setOF_merge (s : State) (b : Bool) : (s.setOF b).merge = s.merge := rfl
@[simp] theorem State.setOF_adder (s : State) (b : Bool) : (s.setOF b).adder = s.adder := rfl
@[simp] theorem State.setOF_multiplier (s : State) (b : Bool) : (s.setOF b).multiplier = s.multiplier := rfl
@[simp] theorem State.setOF_loader (s : State) (b : Bool) : (s.setOF b).loader = s.loader := rfl
@[simp] theorem State.setOF_graphics (s : State) (b : Bool) : (s.setOF b).graphics = s.graphics := rfl
@[simp] theorem State.setOF_pendSync (s : State) (b : Bool) : (s.setOF b).pendSync = s.pendSync := rfl
@[simp] theorem State.setOF_pendDslot (s : State) (b : Bool) : (s.setOF b).pendDslot = s.pendDslot := rfl
@[simp] theorem State.setOF_pendExt (s : State) (b : Bool) : (s.setOF b).pendExt = s.pendExt := rfl
@[simp] theorem State.setOF_firTrap (s : State) (b : Bool) : (s.setOF b).firTrap = s.firTrap := rfl
@[simp] theorem State.setOF_dslotTarget (s : State) (b : Bool) : (s.setOF b).dslotTarget = s.dslotTarget := rfl
@[simp] theorem State.setOF_trapInfo (s : State) (b : Bool) : (s.setOF b).trapInfo = s.trapInfo := rfl
@[simp] theorem State.setOF_intPin (s : State) (b : Bool) : (s.setOF b).intPin = s.intPin := rfl
@[simp] theorem State.setOF_holdPin (s : State) (b : Bool) : (s.setOF b).holdPin = s.holdPin := rfl
@[simp] theorem State.setOF_resetPin (s : State) (b : Bool) : (s.setOF b).resetPin = s.resetPin := rfl
@[simp] theorem State.setOF_mem (s : State) (b : Bool) : (s.setOF b).mem = s.mem := rfl
@[simp] theorem State.setOF_bus (s : State) (b : Bool) : (s.setOF b).bus = s.bus := rfl
@[simp] theorem State.setOF_freeCount (s : State) (b : Bool) : (s.setOF b).freeCount = s.freeCount := rfl
@[simp] theorem State.setOF_fetched (s : State) (b : Bool) : (s.setOF b).fetched = s.fetched := rfl
@[simp] theorem State.setOF_params (s : State) (b : Bool) : (s.setOF b).params = s.params := rfl
-- nextFree
@[simp] theorem State.nextFree_gpr (s : State) : (s.nextFree).gpr = s.gpr := rfl
@[simp] theorem State.nextFree_fpr (s : State) : (s.nextFree).fpr = s.fpr := rfl
@[simp] theorem State.nextFree_pc (s : State) : (s.nextFree).pc = s.pc := rfl
@[simp] theorem State.nextFree_fir (s : State) : (s.nextFree).fir = s.fir := rfl
@[simp] theorem State.nextFree_psr (s : State) : (s.nextFree).psr = s.psr := rfl
@[simp] theorem State.nextFree_dirbase (s : State) : (s.nextFree).dirbase = s.dirbase := rfl
@[simp] theorem State.nextFree_db (s : State) : (s.nextFree).db = s.db := rfl
@[simp] theorem State.nextFree_fsr (s : State) : (s.nextFree).fsr = s.fsr := rfl
@[simp] theorem State.nextFree_epsr (s : State) : (s.nextFree).epsr = s.epsr := rfl
@[simp] theorem State.nextFree_kr (s : State) : (s.nextFree).kr = s.kr := rfl
@[simp] theorem State.nextFree_ki (s : State) : (s.nextFree).ki = s.ki := rfl
@[simp] theorem State.nextFree_t (s : State) : (s.nextFree).t = s.t := rfl
@[simp] theorem State.nextFree_merge (s : State) : (s.nextFree).merge = s.merge := rfl
@[simp] theorem State.nextFree_adder (s : State) : (s.nextFree).adder = s.adder := rfl
@[simp] theorem State.nextFree_multiplier (s : State) : (s.nextFree).multiplier = s.multiplier := rfl
@[simp] theorem State.nextFree_loader (s : State) : (s.nextFree).loader = s.loader := rfl
@[simp] theorem State.nextFree_graphics (s : State) : (s.nextFree).graphics = s.graphics := rfl
@[simp] theorem State.nextFree_pendSync (s : State) : (s.nextFree).pendSync = s.pendSync := rfl
@[simp] theorem State.nextFree_pendDslot (s : State) : (s.nextFree).pendDslot = s.pendDslot := rfl
@[simp] theorem State.nextFree_pendExt (s : State) : (s.nextFree).pendExt = s.pendExt := rfl
@[simp] theorem State.nextFree_firTrap (s : State) : (s.nextFree).firTrap = s.firTrap := rfl
@[simp] theorem State.nextFree_dslotTarget (s : State) : (s.nextFree).dslotTarget = s.dslotTarget := rfl
@[simp] theorem State.nextFree_trapInfo (s : State) : (s.nextFree).trapInfo = s.trapInfo := rfl
@[simp] theorem State.nextFree_intPin (s : State) : (s.nextFree).intPin = s.intPin := rfl
@[simp] theorem State.nextFree_holdPin (s : State) : (s.nextFree).holdPin = s.holdPin := rfl
@[simp] theorem State.nextFree_resetPin (s : State) : (s.nextFree).resetPin = s.resetPin := rfl
@[simp] theorem State.nextFree_mem (s : State) : (s.nextFree).mem = s.mem := rfl
@[simp] theorem State.nextFree_bus (s : State) : (s.nextFree).bus = s.bus := rfl
@[simp] theorem State.nextFree_fetched (s : State) : (s.nextFree).fetched = s.fetched := rfl
@[simp] theorem State.nextFree_params (s : State) : (s.nextFree).params = s.params := rfl
-- record
@[simp] theorem State.record_gpr (s : State) (a : BusAccess) : (s.record a).gpr = s.gpr := rfl
@[simp] theorem State.record_fpr (s : State) (a : BusAccess) : (s.record a).fpr = s.fpr := rfl
@[simp] theorem State.record_pc (s : State) (a : BusAccess) : (s.record a).pc = s.pc := rfl
@[simp] theorem State.record_fir (s : State) (a : BusAccess) : (s.record a).fir = s.fir := rfl
@[simp] theorem State.record_psr (s : State) (a : BusAccess) : (s.record a).psr = s.psr := rfl
@[simp] theorem State.record_dirbase (s : State) (a : BusAccess) : (s.record a).dirbase = s.dirbase := rfl
@[simp] theorem State.record_db (s : State) (a : BusAccess) : (s.record a).db = s.db := rfl
@[simp] theorem State.record_fsr (s : State) (a : BusAccess) : (s.record a).fsr = s.fsr := rfl
@[simp] theorem State.record_epsr (s : State) (a : BusAccess) : (s.record a).epsr = s.epsr := rfl
@[simp] theorem State.record_kr (s : State) (a : BusAccess) : (s.record a).kr = s.kr := rfl
@[simp] theorem State.record_ki (s : State) (a : BusAccess) : (s.record a).ki = s.ki := rfl
@[simp] theorem State.record_t (s : State) (a : BusAccess) : (s.record a).t = s.t := rfl
@[simp] theorem State.record_merge (s : State) (a : BusAccess) : (s.record a).merge = s.merge := rfl
@[simp] theorem State.record_adder (s : State) (a : BusAccess) : (s.record a).adder = s.adder := rfl
@[simp] theorem State.record_multiplier (s : State) (a : BusAccess) : (s.record a).multiplier = s.multiplier := rfl
@[simp] theorem State.record_loader (s : State) (a : BusAccess) : (s.record a).loader = s.loader := rfl
@[simp] theorem State.record_graphics (s : State) (a : BusAccess) : (s.record a).graphics = s.graphics := rfl
@[simp] theorem State.record_pendSync (s : State) (a : BusAccess) : (s.record a).pendSync = s.pendSync := rfl
@[simp] theorem State.record_pendDslot (s : State) (a : BusAccess) : (s.record a).pendDslot = s.pendDslot := rfl
@[simp] theorem State.record_pendExt (s : State) (a : BusAccess) : (s.record a).pendExt = s.pendExt := rfl
@[simp] theorem State.record_firTrap (s : State) (a : BusAccess) : (s.record a).firTrap = s.firTrap := rfl
@[simp] theorem State.record_dslotTarget (s : State) (a : BusAccess) : (s.record a).dslotTarget = s.dslotTarget := rfl
@[simp] theorem State.record_trapInfo (s : State) (a : BusAccess) : (s.record a).trapInfo = s.trapInfo := rfl
@[simp] theorem State.record_intPin (s : State) (a : BusAccess) : (s.record a).intPin = s.intPin := rfl
@[simp] theorem State.record_holdPin (s : State) (a : BusAccess) : (s.record a).holdPin = s.holdPin := rfl
@[simp] theorem State.record_resetPin (s : State) (a : BusAccess) : (s.record a).resetPin = s.resetPin := rfl
@[simp] theorem State.record_mem (s : State) (a : BusAccess) : (s.record a).mem = s.mem := rfl
@[simp] theorem State.record_freeCount (s : State) (a : BusAccess) : (s.record a).freeCount = s.freeCount := rfl
@[simp] theorem State.record_fetched (s : State) (a : BusAccess) : (s.record a).fetched = s.fetched := rfl
@[simp] theorem State.record_params (s : State) (a : BusAccess) : (s.record a).params = s.params := rfl
-- setMerge
@[simp] theorem State.setMerge_gpr (s : State) (v : Dword) : (s.setMerge v).gpr = s.gpr := rfl
@[simp] theorem State.setMerge_fpr (s : State) (v : Dword) : (s.setMerge v).fpr = s.fpr := rfl
@[simp] theorem State.setMerge_pc (s : State) (v : Dword) : (s.setMerge v).pc = s.pc := rfl
@[simp] theorem State.setMerge_fir (s : State) (v : Dword) : (s.setMerge v).fir = s.fir := rfl
@[simp] theorem State.setMerge_psr (s : State) (v : Dword) : (s.setMerge v).psr = s.psr := rfl
@[simp] theorem State.setMerge_dirbase (s : State) (v : Dword) : (s.setMerge v).dirbase = s.dirbase := rfl
@[simp] theorem State.setMerge_db (s : State) (v : Dword) : (s.setMerge v).db = s.db := rfl
@[simp] theorem State.setMerge_fsr (s : State) (v : Dword) : (s.setMerge v).fsr = s.fsr := rfl
@[simp] theorem State.setMerge_epsr (s : State) (v : Dword) : (s.setMerge v).epsr = s.epsr := rfl
@[simp] theorem State.setMerge_kr (s : State) (v : Dword) : (s.setMerge v).kr = s.kr := rfl
@[simp] theorem State.setMerge_ki (s : State) (v : Dword) : (s.setMerge v).ki = s.ki := rfl
@[simp] theorem State.setMerge_t (s : State) (v : Dword) : (s.setMerge v).t = s.t := rfl
@[simp] theorem State.setMerge_adder (s : State) (v : Dword) : (s.setMerge v).adder = s.adder := rfl
@[simp] theorem State.setMerge_multiplier (s : State) (v : Dword) : (s.setMerge v).multiplier = s.multiplier := rfl
@[simp] theorem State.setMerge_loader (s : State) (v : Dword) : (s.setMerge v).loader = s.loader := rfl
@[simp] theorem State.setMerge_graphics (s : State) (v : Dword) : (s.setMerge v).graphics = s.graphics := rfl
@[simp] theorem State.setMerge_pendSync (s : State) (v : Dword) : (s.setMerge v).pendSync = s.pendSync := rfl
@[simp] theorem State.setMerge_pendDslot (s : State) (v : Dword) : (s.setMerge v).pendDslot = s.pendDslot := rfl
@[simp] theorem State.setMerge_pendExt (s : State) (v : Dword) : (s.setMerge v).pendExt = s.pendExt := rfl
@[simp] theorem State.setMerge_firTrap (s : State) (v : Dword) : (s.setMerge v).firTrap = s.firTrap := rfl
@[simp] theorem State.setMerge_dslotTarget (s : State) (v : Dword) : (s.setMerge v).dslotTarget = s.dslotTarget := rfl
@[simp] theorem State.setMerge_trapInfo (s : State) (v : Dword) : (s.setMerge v).trapInfo = s.trapInfo := rfl
@[simp] theorem State.setMerge_intPin (s : State) (v : Dword) : (s.setMerge v).intPin = s.intPin := rfl
@[simp] theorem State.setMerge_holdPin (s : State) (v : Dword) : (s.setMerge v).holdPin = s.holdPin := rfl
@[simp] theorem State.setMerge_resetPin (s : State) (v : Dword) : (s.setMerge v).resetPin = s.resetPin := rfl
@[simp] theorem State.setMerge_mem (s : State) (v : Dword) : (s.setMerge v).mem = s.mem := rfl
@[simp] theorem State.setMerge_bus (s : State) (v : Dword) : (s.setMerge v).bus = s.bus := rfl
@[simp] theorem State.setMerge_freeCount (s : State) (v : Dword) : (s.setMerge v).freeCount = s.freeCount := rfl
@[simp] theorem State.setMerge_fetched (s : State) (v : Dword) : (s.setMerge v).fetched = s.fetched := rfl
@[simp] theorem State.setMerge_params (s : State) (v : Dword) : (s.setMerge v).params = s.params := rfl
-- recordTrap
@[simp] theorem State.recordTrap_gpr (s : State) (c : TrapClass) (r : TrapReason) (d : TrapDetail) : (s.recordTrap c r d).gpr = s.gpr := rfl
@[simp] theorem State.recordTrap_fpr (s : State) (c : TrapClass) (r : TrapReason) (d : TrapDetail) : (s.recordTrap c r d).fpr = s.fpr := rfl
@[simp] theorem State.recordTrap_pc (s : State) (c : TrapClass) (r : TrapReason) (d : TrapDetail) : (s.recordTrap c r d).pc = s.pc := rfl
@[simp] theorem State.recordTrap_fir (s : State) (c : TrapClass) (r : TrapReason) (d : TrapDetail) : (s.recordTrap c r d).fir = s.fir := rfl
@[simp] theorem State.recordTrap_dirbase (s : State) (c : TrapClass) (r : TrapReason) (d : TrapDetail) : (s.recordTrap c r d).dirbase = s.dirbase := rfl
@[simp] theorem State.recordTrap_db (s : State) (c : TrapClass) (r : TrapReason) (d : TrapDetail) : (s.recordTrap c r d).db = s.db := rfl
@[simp] theorem State.recordTrap_fsr (s : State) (c : TrapClass) (r : TrapReason) (d : TrapDetail) : (s.recordTrap c r d).fsr = s.fsr := rfl
@[simp] theorem State.recordTrap_epsr (s : State) (c : TrapClass) (r : TrapReason) (d : TrapDetail) : (s.recordTrap c r d).epsr = s.epsr := rfl
@[simp] theorem State.recordTrap_kr (s : State) (c : TrapClass) (r : TrapReason) (d : TrapDetail) : (s.recordTrap c r d).kr = s.kr := rfl
@[simp] theorem State.recordTrap_ki (s : State) (c : TrapClass) (r : TrapReason) (d : TrapDetail) : (s.recordTrap c r d).ki = s.ki := rfl
@[simp] theorem State.recordTrap_t (s : State) (c : TrapClass) (r : TrapReason) (d : TrapDetail) : (s.recordTrap c r d).t = s.t := rfl
@[simp] theorem State.recordTrap_merge (s : State) (c : TrapClass) (r : TrapReason) (d : TrapDetail) : (s.recordTrap c r d).merge = s.merge := rfl
@[simp] theorem State.recordTrap_adder (s : State) (c : TrapClass) (r : TrapReason) (d : TrapDetail) : (s.recordTrap c r d).adder = s.adder := rfl
@[simp] theorem State.recordTrap_multiplier (s : State) (c : TrapClass) (r : TrapReason) (d : TrapDetail) : (s.recordTrap c r d).multiplier = s.multiplier := rfl
@[simp] theorem State.recordTrap_loader (s : State) (c : TrapClass) (r : TrapReason) (d : TrapDetail) : (s.recordTrap c r d).loader = s.loader := rfl
@[simp] theorem State.recordTrap_graphics (s : State) (c : TrapClass) (r : TrapReason) (d : TrapDetail) : (s.recordTrap c r d).graphics = s.graphics := rfl
@[simp] theorem State.recordTrap_pendDslot (s : State) (c : TrapClass) (r : TrapReason) (d : TrapDetail) : (s.recordTrap c r d).pendDslot = s.pendDslot := rfl
@[simp] theorem State.recordTrap_pendExt (s : State) (c : TrapClass) (r : TrapReason) (d : TrapDetail) : (s.recordTrap c r d).pendExt = s.pendExt := rfl
@[simp] theorem State.recordTrap_firTrap (s : State) (c : TrapClass) (r : TrapReason) (d : TrapDetail) : (s.recordTrap c r d).firTrap = s.firTrap := rfl
@[simp] theorem State.recordTrap_dslotTarget (s : State) (c : TrapClass) (r : TrapReason) (d : TrapDetail) : (s.recordTrap c r d).dslotTarget = s.dslotTarget := rfl
@[simp] theorem State.recordTrap_intPin (s : State) (c : TrapClass) (r : TrapReason) (d : TrapDetail) : (s.recordTrap c r d).intPin = s.intPin := rfl
@[simp] theorem State.recordTrap_holdPin (s : State) (c : TrapClass) (r : TrapReason) (d : TrapDetail) : (s.recordTrap c r d).holdPin = s.holdPin := rfl
@[simp] theorem State.recordTrap_resetPin (s : State) (c : TrapClass) (r : TrapReason) (d : TrapDetail) : (s.recordTrap c r d).resetPin = s.resetPin := rfl
@[simp] theorem State.recordTrap_mem (s : State) (c : TrapClass) (r : TrapReason) (d : TrapDetail) : (s.recordTrap c r d).mem = s.mem := rfl
@[simp] theorem State.recordTrap_bus (s : State) (c : TrapClass) (r : TrapReason) (d : TrapDetail) : (s.recordTrap c r d).bus = s.bus := rfl
@[simp] theorem State.recordTrap_freeCount (s : State) (c : TrapClass) (r : TrapReason) (d : TrapDetail) : (s.recordTrap c r d).freeCount = s.freeCount := rfl
@[simp] theorem State.recordTrap_fetched (s : State) (c : TrapClass) (r : TrapReason) (d : TrapDetail) : (s.recordTrap c r d).fetched = s.fetched := rfl
@[simp] theorem State.recordTrap_params (s : State) (c : TrapClass) (r : TrapReason) (d : TrapDetail) : (s.recordTrap c r d).params = s.params := rfl
-- afterReadFir
@[simp] theorem State.afterReadFir_gpr (s : State) : (s.afterReadFir).gpr = s.gpr := rfl
@[simp] theorem State.afterReadFir_fpr (s : State) : (s.afterReadFir).fpr = s.fpr := rfl
@[simp] theorem State.afterReadFir_pc (s : State) : (s.afterReadFir).pc = s.pc := rfl
@[simp] theorem State.afterReadFir_psr (s : State) : (s.afterReadFir).psr = s.psr := rfl
@[simp] theorem State.afterReadFir_dirbase (s : State) : (s.afterReadFir).dirbase = s.dirbase := rfl
@[simp] theorem State.afterReadFir_db (s : State) : (s.afterReadFir).db = s.db := rfl
@[simp] theorem State.afterReadFir_fsr (s : State) : (s.afterReadFir).fsr = s.fsr := rfl
@[simp] theorem State.afterReadFir_epsr (s : State) : (s.afterReadFir).epsr = s.epsr := rfl
@[simp] theorem State.afterReadFir_kr (s : State) : (s.afterReadFir).kr = s.kr := rfl
@[simp] theorem State.afterReadFir_ki (s : State) : (s.afterReadFir).ki = s.ki := rfl
@[simp] theorem State.afterReadFir_t (s : State) : (s.afterReadFir).t = s.t := rfl
@[simp] theorem State.afterReadFir_merge (s : State) : (s.afterReadFir).merge = s.merge := rfl
@[simp] theorem State.afterReadFir_adder (s : State) : (s.afterReadFir).adder = s.adder := rfl
@[simp] theorem State.afterReadFir_multiplier (s : State) : (s.afterReadFir).multiplier = s.multiplier := rfl
@[simp] theorem State.afterReadFir_loader (s : State) : (s.afterReadFir).loader = s.loader := rfl
@[simp] theorem State.afterReadFir_graphics (s : State) : (s.afterReadFir).graphics = s.graphics := rfl
@[simp] theorem State.afterReadFir_pendSync (s : State) : (s.afterReadFir).pendSync = s.pendSync := rfl
@[simp] theorem State.afterReadFir_pendDslot (s : State) : (s.afterReadFir).pendDslot = s.pendDslot := rfl
@[simp] theorem State.afterReadFir_pendExt (s : State) : (s.afterReadFir).pendExt = s.pendExt := rfl
@[simp] theorem State.afterReadFir_dslotTarget (s : State) : (s.afterReadFir).dslotTarget = s.dslotTarget := rfl
@[simp] theorem State.afterReadFir_trapInfo (s : State) : (s.afterReadFir).trapInfo = s.trapInfo := rfl
@[simp] theorem State.afterReadFir_intPin (s : State) : (s.afterReadFir).intPin = s.intPin := rfl
@[simp] theorem State.afterReadFir_holdPin (s : State) : (s.afterReadFir).holdPin = s.holdPin := rfl
@[simp] theorem State.afterReadFir_resetPin (s : State) : (s.afterReadFir).resetPin = s.resetPin := rfl
@[simp] theorem State.afterReadFir_mem (s : State) : (s.afterReadFir).mem = s.mem := rfl
@[simp] theorem State.afterReadFir_bus (s : State) : (s.afterReadFir).bus = s.bus := rfl
@[simp] theorem State.afterReadFir_freeCount (s : State) : (s.afterReadFir).freeCount = s.freeCount := rfl
@[simp] theorem State.afterReadFir_fetched (s : State) : (s.afterReadFir).fetched = s.fetched := rfl
@[simp] theorem State.afterReadFir_params (s : State) : (s.afterReadFir).params = s.params := rfl
-- recordResult
@[simp] theorem State.recordResult_gpr (s : State) (u : FpUnit) (r : Rounded) : (s.recordResult u r).gpr = s.gpr := rfl
@[simp] theorem State.recordResult_fpr (s : State) (u : FpUnit) (r : Rounded) : (s.recordResult u r).fpr = s.fpr := rfl
@[simp] theorem State.recordResult_pc (s : State) (u : FpUnit) (r : Rounded) : (s.recordResult u r).pc = s.pc := rfl
@[simp] theorem State.recordResult_fir (s : State) (u : FpUnit) (r : Rounded) : (s.recordResult u r).fir = s.fir := rfl
@[simp] theorem State.recordResult_psr (s : State) (u : FpUnit) (r : Rounded) : (s.recordResult u r).psr = s.psr := rfl
@[simp] theorem State.recordResult_dirbase (s : State) (u : FpUnit) (r : Rounded) : (s.recordResult u r).dirbase = s.dirbase := rfl
@[simp] theorem State.recordResult_db (s : State) (u : FpUnit) (r : Rounded) : (s.recordResult u r).db = s.db := rfl
@[simp] theorem State.recordResult_epsr (s : State) (u : FpUnit) (r : Rounded) : (s.recordResult u r).epsr = s.epsr := rfl
@[simp] theorem State.recordResult_kr (s : State) (u : FpUnit) (r : Rounded) : (s.recordResult u r).kr = s.kr := rfl
@[simp] theorem State.recordResult_ki (s : State) (u : FpUnit) (r : Rounded) : (s.recordResult u r).ki = s.ki := rfl
@[simp] theorem State.recordResult_t (s : State) (u : FpUnit) (r : Rounded) : (s.recordResult u r).t = s.t := rfl
@[simp] theorem State.recordResult_merge (s : State) (u : FpUnit) (r : Rounded) : (s.recordResult u r).merge = s.merge := rfl
@[simp] theorem State.recordResult_adder (s : State) (u : FpUnit) (r : Rounded) : (s.recordResult u r).adder = s.adder := rfl
@[simp] theorem State.recordResult_multiplier (s : State) (u : FpUnit) (r : Rounded) : (s.recordResult u r).multiplier = s.multiplier := rfl
@[simp] theorem State.recordResult_loader (s : State) (u : FpUnit) (r : Rounded) : (s.recordResult u r).loader = s.loader := rfl
@[simp] theorem State.recordResult_graphics (s : State) (u : FpUnit) (r : Rounded) : (s.recordResult u r).graphics = s.graphics := rfl
@[simp] theorem State.recordResult_pendSync (s : State) (u : FpUnit) (r : Rounded) : (s.recordResult u r).pendSync = s.pendSync := rfl
@[simp] theorem State.recordResult_pendDslot (s : State) (u : FpUnit) (r : Rounded) : (s.recordResult u r).pendDslot = s.pendDslot := rfl
@[simp] theorem State.recordResult_pendExt (s : State) (u : FpUnit) (r : Rounded) : (s.recordResult u r).pendExt = s.pendExt := rfl
@[simp] theorem State.recordResult_firTrap (s : State) (u : FpUnit) (r : Rounded) : (s.recordResult u r).firTrap = s.firTrap := rfl
@[simp] theorem State.recordResult_dslotTarget (s : State) (u : FpUnit) (r : Rounded) : (s.recordResult u r).dslotTarget = s.dslotTarget := rfl
@[simp] theorem State.recordResult_trapInfo (s : State) (u : FpUnit) (r : Rounded) : (s.recordResult u r).trapInfo = s.trapInfo := rfl
@[simp] theorem State.recordResult_intPin (s : State) (u : FpUnit) (r : Rounded) : (s.recordResult u r).intPin = s.intPin := rfl
@[simp] theorem State.recordResult_holdPin (s : State) (u : FpUnit) (r : Rounded) : (s.recordResult u r).holdPin = s.holdPin := rfl
@[simp] theorem State.recordResult_resetPin (s : State) (u : FpUnit) (r : Rounded) : (s.recordResult u r).resetPin = s.resetPin := rfl
@[simp] theorem State.recordResult_mem (s : State) (u : FpUnit) (r : Rounded) : (s.recordResult u r).mem = s.mem := rfl
@[simp] theorem State.recordResult_bus (s : State) (u : FpUnit) (r : Rounded) : (s.recordResult u r).bus = s.bus := rfl
@[simp] theorem State.recordResult_freeCount (s : State) (u : FpUnit) (r : Rounded) : (s.recordResult u r).freeCount = s.freeCount := rfl
@[simp] theorem State.recordResult_fetched (s : State) (u : FpUnit) (r : Rounded) : (s.recordResult u r).fetched = s.fetched := rfl
@[simp] theorem State.recordResult_params (s : State) (u : FpUnit) (r : Rounded) : (s.recordResult u r).params = s.params := rfl
-- setPair
@[simp] theorem State.setPair_gpr (s : State) (i : Reg) (v w : Word) : (s.setPair i v w).gpr = s.gpr := rfl
@[simp] theorem State.setPair_pc (s : State) (i : Reg) (v w : Word) : (s.setPair i v w).pc = s.pc := rfl
@[simp] theorem State.setPair_fir (s : State) (i : Reg) (v w : Word) : (s.setPair i v w).fir = s.fir := rfl
@[simp] theorem State.setPair_psr (s : State) (i : Reg) (v w : Word) : (s.setPair i v w).psr = s.psr := rfl
@[simp] theorem State.setPair_dirbase (s : State) (i : Reg) (v w : Word) : (s.setPair i v w).dirbase = s.dirbase := rfl
@[simp] theorem State.setPair_db (s : State) (i : Reg) (v w : Word) : (s.setPair i v w).db = s.db := rfl
@[simp] theorem State.setPair_fsr (s : State) (i : Reg) (v w : Word) : (s.setPair i v w).fsr = s.fsr := rfl
@[simp] theorem State.setPair_epsr (s : State) (i : Reg) (v w : Word) : (s.setPair i v w).epsr = s.epsr := rfl
@[simp] theorem State.setPair_kr (s : State) (i : Reg) (v w : Word) : (s.setPair i v w).kr = s.kr := rfl
@[simp] theorem State.setPair_ki (s : State) (i : Reg) (v w : Word) : (s.setPair i v w).ki = s.ki := rfl
@[simp] theorem State.setPair_t (s : State) (i : Reg) (v w : Word) : (s.setPair i v w).t = s.t := rfl
@[simp] theorem State.setPair_merge (s : State) (i : Reg) (v w : Word) : (s.setPair i v w).merge = s.merge := rfl
@[simp] theorem State.setPair_adder (s : State) (i : Reg) (v w : Word) : (s.setPair i v w).adder = s.adder := rfl
@[simp] theorem State.setPair_multiplier (s : State) (i : Reg) (v w : Word) : (s.setPair i v w).multiplier = s.multiplier := rfl
@[simp] theorem State.setPair_loader (s : State) (i : Reg) (v w : Word) : (s.setPair i v w).loader = s.loader := rfl
@[simp] theorem State.setPair_graphics (s : State) (i : Reg) (v w : Word) : (s.setPair i v w).graphics = s.graphics := rfl
@[simp] theorem State.setPair_pendSync (s : State) (i : Reg) (v w : Word) : (s.setPair i v w).pendSync = s.pendSync := rfl
@[simp] theorem State.setPair_pendDslot (s : State) (i : Reg) (v w : Word) : (s.setPair i v w).pendDslot = s.pendDslot := rfl
@[simp] theorem State.setPair_pendExt (s : State) (i : Reg) (v w : Word) : (s.setPair i v w).pendExt = s.pendExt := rfl
@[simp] theorem State.setPair_firTrap (s : State) (i : Reg) (v w : Word) : (s.setPair i v w).firTrap = s.firTrap := rfl
@[simp] theorem State.setPair_dslotTarget (s : State) (i : Reg) (v w : Word) : (s.setPair i v w).dslotTarget = s.dslotTarget := rfl
@[simp] theorem State.setPair_trapInfo (s : State) (i : Reg) (v w : Word) : (s.setPair i v w).trapInfo = s.trapInfo := rfl
@[simp] theorem State.setPair_intPin (s : State) (i : Reg) (v w : Word) : (s.setPair i v w).intPin = s.intPin := rfl
@[simp] theorem State.setPair_holdPin (s : State) (i : Reg) (v w : Word) : (s.setPair i v w).holdPin = s.holdPin := rfl
@[simp] theorem State.setPair_resetPin (s : State) (i : Reg) (v w : Word) : (s.setPair i v w).resetPin = s.resetPin := rfl
@[simp] theorem State.setPair_mem (s : State) (i : Reg) (v w : Word) : (s.setPair i v w).mem = s.mem := rfl
@[simp] theorem State.setPair_bus (s : State) (i : Reg) (v w : Word) : (s.setPair i v w).bus = s.bus := rfl
@[simp] theorem State.setPair_freeCount (s : State) (i : Reg) (v w : Word) : (s.setPair i v w).freeCount = s.freeCount := rfl
@[simp] theorem State.setPair_fetched (s : State) (i : Reg) (v w : Word) : (s.setPair i v w).fetched = s.fetched := rfl
@[simp] theorem State.setPair_params (s : State) (i : Reg) (v w : Word) : (s.setPair i v w).params = s.params := rfl
-- setFd
@[simp] theorem State.setFd_gpr (s : State) (i : Reg) (v : Dword) : (s.setFd i v).gpr = s.gpr := rfl
@[simp] theorem State.setFd_pc (s : State) (i : Reg) (v : Dword) : (s.setFd i v).pc = s.pc := rfl
@[simp] theorem State.setFd_fir (s : State) (i : Reg) (v : Dword) : (s.setFd i v).fir = s.fir := rfl
@[simp] theorem State.setFd_psr (s : State) (i : Reg) (v : Dword) : (s.setFd i v).psr = s.psr := rfl
@[simp] theorem State.setFd_dirbase (s : State) (i : Reg) (v : Dword) : (s.setFd i v).dirbase = s.dirbase := rfl
@[simp] theorem State.setFd_db (s : State) (i : Reg) (v : Dword) : (s.setFd i v).db = s.db := rfl
@[simp] theorem State.setFd_fsr (s : State) (i : Reg) (v : Dword) : (s.setFd i v).fsr = s.fsr := rfl
@[simp] theorem State.setFd_epsr (s : State) (i : Reg) (v : Dword) : (s.setFd i v).epsr = s.epsr := rfl
@[simp] theorem State.setFd_kr (s : State) (i : Reg) (v : Dword) : (s.setFd i v).kr = s.kr := rfl
@[simp] theorem State.setFd_ki (s : State) (i : Reg) (v : Dword) : (s.setFd i v).ki = s.ki := rfl
@[simp] theorem State.setFd_t (s : State) (i : Reg) (v : Dword) : (s.setFd i v).t = s.t := rfl
@[simp] theorem State.setFd_merge (s : State) (i : Reg) (v : Dword) : (s.setFd i v).merge = s.merge := rfl
@[simp] theorem State.setFd_adder (s : State) (i : Reg) (v : Dword) : (s.setFd i v).adder = s.adder := rfl
@[simp] theorem State.setFd_multiplier (s : State) (i : Reg) (v : Dword) : (s.setFd i v).multiplier = s.multiplier := rfl
@[simp] theorem State.setFd_loader (s : State) (i : Reg) (v : Dword) : (s.setFd i v).loader = s.loader := rfl
@[simp] theorem State.setFd_graphics (s : State) (i : Reg) (v : Dword) : (s.setFd i v).graphics = s.graphics := rfl
@[simp] theorem State.setFd_pendSync (s : State) (i : Reg) (v : Dword) : (s.setFd i v).pendSync = s.pendSync := rfl
@[simp] theorem State.setFd_pendDslot (s : State) (i : Reg) (v : Dword) : (s.setFd i v).pendDslot = s.pendDslot := rfl
@[simp] theorem State.setFd_pendExt (s : State) (i : Reg) (v : Dword) : (s.setFd i v).pendExt = s.pendExt := rfl
@[simp] theorem State.setFd_firTrap (s : State) (i : Reg) (v : Dword) : (s.setFd i v).firTrap = s.firTrap := rfl
@[simp] theorem State.setFd_dslotTarget (s : State) (i : Reg) (v : Dword) : (s.setFd i v).dslotTarget = s.dslotTarget := rfl
@[simp] theorem State.setFd_trapInfo (s : State) (i : Reg) (v : Dword) : (s.setFd i v).trapInfo = s.trapInfo := rfl
@[simp] theorem State.setFd_intPin (s : State) (i : Reg) (v : Dword) : (s.setFd i v).intPin = s.intPin := rfl
@[simp] theorem State.setFd_holdPin (s : State) (i : Reg) (v : Dword) : (s.setFd i v).holdPin = s.holdPin := rfl
@[simp] theorem State.setFd_resetPin (s : State) (i : Reg) (v : Dword) : (s.setFd i v).resetPin = s.resetPin := rfl
@[simp] theorem State.setFd_mem (s : State) (i : Reg) (v : Dword) : (s.setFd i v).mem = s.mem := rfl
@[simp] theorem State.setFd_bus (s : State) (i : Reg) (v : Dword) : (s.setFd i v).bus = s.bus := rfl
@[simp] theorem State.setFd_freeCount (s : State) (i : Reg) (v : Dword) : (s.setFd i v).freeCount = s.freeCount := rfl
@[simp] theorem State.setFd_fetched (s : State) (i : Reg) (v : Dword) : (s.setFd i v).fetched = s.fetched := rfl
@[simp] theorem State.setFd_params (s : State) (i : Reg) (v : Dword) : (s.setFd i v).params = s.params := rfl
-- fw
@[simp] theorem State.fw_gpr (s : State) (p : Prec) (i : Reg) (v : Dword) : (s.fw p i v).gpr = s.gpr := by cases p <;> rfl
@[simp] theorem State.fw_pc (s : State) (p : Prec) (i : Reg) (v : Dword) : (s.fw p i v).pc = s.pc := by cases p <;> rfl
@[simp] theorem State.fw_fir (s : State) (p : Prec) (i : Reg) (v : Dword) : (s.fw p i v).fir = s.fir := by cases p <;> rfl
@[simp] theorem State.fw_psr (s : State) (p : Prec) (i : Reg) (v : Dword) : (s.fw p i v).psr = s.psr := by cases p <;> rfl
@[simp] theorem State.fw_dirbase (s : State) (p : Prec) (i : Reg) (v : Dword) : (s.fw p i v).dirbase = s.dirbase := by cases p <;> rfl
@[simp] theorem State.fw_db (s : State) (p : Prec) (i : Reg) (v : Dword) : (s.fw p i v).db = s.db := by cases p <;> rfl
@[simp] theorem State.fw_fsr (s : State) (p : Prec) (i : Reg) (v : Dword) : (s.fw p i v).fsr = s.fsr := by cases p <;> rfl
@[simp] theorem State.fw_epsr (s : State) (p : Prec) (i : Reg) (v : Dword) : (s.fw p i v).epsr = s.epsr := by cases p <;> rfl
@[simp] theorem State.fw_kr (s : State) (p : Prec) (i : Reg) (v : Dword) : (s.fw p i v).kr = s.kr := by cases p <;> rfl
@[simp] theorem State.fw_ki (s : State) (p : Prec) (i : Reg) (v : Dword) : (s.fw p i v).ki = s.ki := by cases p <;> rfl
@[simp] theorem State.fw_t (s : State) (p : Prec) (i : Reg) (v : Dword) : (s.fw p i v).t = s.t := by cases p <;> rfl
@[simp] theorem State.fw_merge (s : State) (p : Prec) (i : Reg) (v : Dword) : (s.fw p i v).merge = s.merge := by cases p <;> rfl
@[simp] theorem State.fw_adder (s : State) (p : Prec) (i : Reg) (v : Dword) : (s.fw p i v).adder = s.adder := by cases p <;> rfl
@[simp] theorem State.fw_multiplier (s : State) (p : Prec) (i : Reg) (v : Dword) : (s.fw p i v).multiplier = s.multiplier := by cases p <;> rfl
@[simp] theorem State.fw_loader (s : State) (p : Prec) (i : Reg) (v : Dword) : (s.fw p i v).loader = s.loader := by cases p <;> rfl
@[simp] theorem State.fw_graphics (s : State) (p : Prec) (i : Reg) (v : Dword) : (s.fw p i v).graphics = s.graphics := by cases p <;> rfl
@[simp] theorem State.fw_pendSync (s : State) (p : Prec) (i : Reg) (v : Dword) : (s.fw p i v).pendSync = s.pendSync := by cases p <;> rfl
@[simp] theorem State.fw_pendDslot (s : State) (p : Prec) (i : Reg) (v : Dword) : (s.fw p i v).pendDslot = s.pendDslot := by cases p <;> rfl
@[simp] theorem State.fw_pendExt (s : State) (p : Prec) (i : Reg) (v : Dword) : (s.fw p i v).pendExt = s.pendExt := by cases p <;> rfl
@[simp] theorem State.fw_firTrap (s : State) (p : Prec) (i : Reg) (v : Dword) : (s.fw p i v).firTrap = s.firTrap := by cases p <;> rfl
@[simp] theorem State.fw_dslotTarget (s : State) (p : Prec) (i : Reg) (v : Dword) : (s.fw p i v).dslotTarget = s.dslotTarget := by cases p <;> rfl
@[simp] theorem State.fw_trapInfo (s : State) (p : Prec) (i : Reg) (v : Dword) : (s.fw p i v).trapInfo = s.trapInfo := by cases p <;> rfl
@[simp] theorem State.fw_intPin (s : State) (p : Prec) (i : Reg) (v : Dword) : (s.fw p i v).intPin = s.intPin := by cases p <;> rfl
@[simp] theorem State.fw_holdPin (s : State) (p : Prec) (i : Reg) (v : Dword) : (s.fw p i v).holdPin = s.holdPin := by cases p <;> rfl
@[simp] theorem State.fw_resetPin (s : State) (p : Prec) (i : Reg) (v : Dword) : (s.fw p i v).resetPin = s.resetPin := by cases p <;> rfl
@[simp] theorem State.fw_mem (s : State) (p : Prec) (i : Reg) (v : Dword) : (s.fw p i v).mem = s.mem := by cases p <;> rfl
@[simp] theorem State.fw_bus (s : State) (p : Prec) (i : Reg) (v : Dword) : (s.fw p i v).bus = s.bus := by cases p <;> rfl
@[simp] theorem State.fw_freeCount (s : State) (p : Prec) (i : Reg) (v : Dword) : (s.fw p i v).freeCount = s.freeCount := by cases p <;> rfl
@[simp] theorem State.fw_fetched (s : State) (p : Prec) (i : Reg) (v : Dword) : (s.fw p i v).fetched = s.fetched := by cases p <;> rfl
@[simp] theorem State.fw_params (s : State) (p : Prec) (i : Reg) (v : Dword) : (s.fw p i v).params = s.params := by cases p <;> rfl
-- busWrite
@[simp] theorem busWrite_gpr (n : BusSize) (b : Bool) (pa v : Word) (s : State) : (busWrite n b pa v s).gpr = s.gpr := rfl
@[simp] theorem busWrite_fpr (n : BusSize) (b : Bool) (pa v : Word) (s : State) : (busWrite n b pa v s).fpr = s.fpr := rfl
@[simp] theorem busWrite_pc (n : BusSize) (b : Bool) (pa v : Word) (s : State) : (busWrite n b pa v s).pc = s.pc := rfl
@[simp] theorem busWrite_fir (n : BusSize) (b : Bool) (pa v : Word) (s : State) : (busWrite n b pa v s).fir = s.fir := rfl
@[simp] theorem busWrite_psr (n : BusSize) (b : Bool) (pa v : Word) (s : State) : (busWrite n b pa v s).psr = s.psr := rfl
@[simp] theorem busWrite_dirbase (n : BusSize) (b : Bool) (pa v : Word) (s : State) : (busWrite n b pa v s).dirbase = s.dirbase := rfl
@[simp] theorem busWrite_db (n : BusSize) (b : Bool) (pa v : Word) (s : State) : (busWrite n b pa v s).db = s.db := rfl
@[simp] theorem busWrite_fsr (n : BusSize) (b : Bool) (pa v : Word) (s : State) : (busWrite n b pa v s).fsr = s.fsr := rfl
@[simp] theorem busWrite_epsr (n : BusSize) (b : Bool) (pa v : Word) (s : State) : (busWrite n b pa v s).epsr = s.epsr := rfl
@[simp] theorem busWrite_kr (n : BusSize) (b : Bool) (pa v : Word) (s : State) : (busWrite n b pa v s).kr = s.kr := rfl
@[simp] theorem busWrite_ki (n : BusSize) (b : Bool) (pa v : Word) (s : State) : (busWrite n b pa v s).ki = s.ki := rfl
@[simp] theorem busWrite_t (n : BusSize) (b : Bool) (pa v : Word) (s : State) : (busWrite n b pa v s).t = s.t := rfl
@[simp] theorem busWrite_merge (n : BusSize) (b : Bool) (pa v : Word) (s : State) : (busWrite n b pa v s).merge = s.merge := rfl
@[simp] theorem busWrite_adder (n : BusSize) (b : Bool) (pa v : Word) (s : State) : (busWrite n b pa v s).adder = s.adder := rfl
@[simp] theorem busWrite_multiplier (n : BusSize) (b : Bool) (pa v : Word) (s : State) : (busWrite n b pa v s).multiplier = s.multiplier := rfl
@[simp] theorem busWrite_loader (n : BusSize) (b : Bool) (pa v : Word) (s : State) : (busWrite n b pa v s).loader = s.loader := rfl
@[simp] theorem busWrite_graphics (n : BusSize) (b : Bool) (pa v : Word) (s : State) : (busWrite n b pa v s).graphics = s.graphics := rfl
@[simp] theorem busWrite_pendSync (n : BusSize) (b : Bool) (pa v : Word) (s : State) : (busWrite n b pa v s).pendSync = s.pendSync := rfl
@[simp] theorem busWrite_pendDslot (n : BusSize) (b : Bool) (pa v : Word) (s : State) : (busWrite n b pa v s).pendDslot = s.pendDslot := rfl
@[simp] theorem busWrite_pendExt (n : BusSize) (b : Bool) (pa v : Word) (s : State) : (busWrite n b pa v s).pendExt = s.pendExt := rfl
@[simp] theorem busWrite_firTrap (n : BusSize) (b : Bool) (pa v : Word) (s : State) : (busWrite n b pa v s).firTrap = s.firTrap := rfl
@[simp] theorem busWrite_dslotTarget (n : BusSize) (b : Bool) (pa v : Word) (s : State) : (busWrite n b pa v s).dslotTarget = s.dslotTarget := rfl
@[simp] theorem busWrite_trapInfo (n : BusSize) (b : Bool) (pa v : Word) (s : State) : (busWrite n b pa v s).trapInfo = s.trapInfo := rfl
@[simp] theorem busWrite_intPin (n : BusSize) (b : Bool) (pa v : Word) (s : State) : (busWrite n b pa v s).intPin = s.intPin := rfl
@[simp] theorem busWrite_holdPin (n : BusSize) (b : Bool) (pa v : Word) (s : State) : (busWrite n b pa v s).holdPin = s.holdPin := rfl
@[simp] theorem busWrite_resetPin (n : BusSize) (b : Bool) (pa v : Word) (s : State) : (busWrite n b pa v s).resetPin = s.resetPin := rfl
@[simp] theorem busWrite_freeCount (n : BusSize) (b : Bool) (pa v : Word) (s : State) : (busWrite n b pa v s).freeCount = s.freeCount := rfl
@[simp] theorem busWrite_fetched (n : BusSize) (b : Bool) (pa v : Word) (s : State) : (busWrite n b pa v s).fetched = s.fetched := rfl
@[simp] theorem busWrite_params (n : BusSize) (b : Bool) (pa v : Word) (s : State) : (busWrite n b pa v s).params = s.params := rfl
-- autoInc
@[simp] theorem State.autoInc_fpr (s : State) (inc : Bool) (i : Reg) (v : Word) : (s.autoInc inc i v).fpr = s.fpr := by cases inc <;> rfl
@[simp] theorem State.autoInc_pc (s : State) (inc : Bool) (i : Reg) (v : Word) : (s.autoInc inc i v).pc = s.pc := by cases inc <;> rfl
@[simp] theorem State.autoInc_fir (s : State) (inc : Bool) (i : Reg) (v : Word) : (s.autoInc inc i v).fir = s.fir := by cases inc <;> rfl
@[simp] theorem State.autoInc_psr (s : State) (inc : Bool) (i : Reg) (v : Word) : (s.autoInc inc i v).psr = s.psr := by cases inc <;> rfl
@[simp] theorem State.autoInc_dirbase (s : State) (inc : Bool) (i : Reg) (v : Word) : (s.autoInc inc i v).dirbase = s.dirbase := by cases inc <;> rfl
@[simp] theorem State.autoInc_db (s : State) (inc : Bool) (i : Reg) (v : Word) : (s.autoInc inc i v).db = s.db := by cases inc <;> rfl
@[simp] theorem State.autoInc_fsr (s : State) (inc : Bool) (i : Reg) (v : Word) : (s.autoInc inc i v).fsr = s.fsr := by cases inc <;> rfl
@[simp] theorem State.autoInc_epsr (s : State) (inc : Bool) (i : Reg) (v : Word) : (s.autoInc inc i v).epsr = s.epsr := by cases inc <;> rfl
@[simp] theorem State.autoInc_kr (s : State) (inc : Bool) (i : Reg) (v : Word) : (s.autoInc inc i v).kr = s.kr := by cases inc <;> rfl
@[simp] theorem State.autoInc_ki (s : State) (inc : Bool) (i : Reg) (v : Word) : (s.autoInc inc i v).ki = s.ki := by cases inc <;> rfl
@[simp] theorem State.autoInc_t (s : State) (inc : Bool) (i : Reg) (v : Word) : (s.autoInc inc i v).t = s.t := by cases inc <;> rfl
@[simp] theorem State.autoInc_merge (s : State) (inc : Bool) (i : Reg) (v : Word) : (s.autoInc inc i v).merge = s.merge := by cases inc <;> rfl
@[simp] theorem State.autoInc_adder (s : State) (inc : Bool) (i : Reg) (v : Word) : (s.autoInc inc i v).adder = s.adder := by cases inc <;> rfl
@[simp] theorem State.autoInc_multiplier (s : State) (inc : Bool) (i : Reg) (v : Word) : (s.autoInc inc i v).multiplier = s.multiplier := by cases inc <;> rfl
@[simp] theorem State.autoInc_loader (s : State) (inc : Bool) (i : Reg) (v : Word) : (s.autoInc inc i v).loader = s.loader := by cases inc <;> rfl
@[simp] theorem State.autoInc_graphics (s : State) (inc : Bool) (i : Reg) (v : Word) : (s.autoInc inc i v).graphics = s.graphics := by cases inc <;> rfl
@[simp] theorem State.autoInc_pendSync (s : State) (inc : Bool) (i : Reg) (v : Word) : (s.autoInc inc i v).pendSync = s.pendSync := by cases inc <;> rfl
@[simp] theorem State.autoInc_pendDslot (s : State) (inc : Bool) (i : Reg) (v : Word) : (s.autoInc inc i v).pendDslot = s.pendDslot := by cases inc <;> rfl
@[simp] theorem State.autoInc_pendExt (s : State) (inc : Bool) (i : Reg) (v : Word) : (s.autoInc inc i v).pendExt = s.pendExt := by cases inc <;> rfl
@[simp] theorem State.autoInc_firTrap (s : State) (inc : Bool) (i : Reg) (v : Word) : (s.autoInc inc i v).firTrap = s.firTrap := by cases inc <;> rfl
@[simp] theorem State.autoInc_dslotTarget (s : State) (inc : Bool) (i : Reg) (v : Word) : (s.autoInc inc i v).dslotTarget = s.dslotTarget := by cases inc <;> rfl
@[simp] theorem State.autoInc_trapInfo (s : State) (inc : Bool) (i : Reg) (v : Word) : (s.autoInc inc i v).trapInfo = s.trapInfo := by cases inc <;> rfl
@[simp] theorem State.autoInc_intPin (s : State) (inc : Bool) (i : Reg) (v : Word) : (s.autoInc inc i v).intPin = s.intPin := by cases inc <;> rfl
@[simp] theorem State.autoInc_holdPin (s : State) (inc : Bool) (i : Reg) (v : Word) : (s.autoInc inc i v).holdPin = s.holdPin := by cases inc <;> rfl
@[simp] theorem State.autoInc_resetPin (s : State) (inc : Bool) (i : Reg) (v : Word) : (s.autoInc inc i v).resetPin = s.resetPin := by cases inc <;> rfl
@[simp] theorem State.autoInc_mem (s : State) (inc : Bool) (i : Reg) (v : Word) : (s.autoInc inc i v).mem = s.mem := by cases inc <;> rfl
@[simp] theorem State.autoInc_bus (s : State) (inc : Bool) (i : Reg) (v : Word) : (s.autoInc inc i v).bus = s.bus := by cases inc <;> rfl
@[simp] theorem State.autoInc_freeCount (s : State) (inc : Bool) (i : Reg) (v : Word) : (s.autoInc inc i v).freeCount = s.freeCount := by cases inc <;> rfl
@[simp] theorem State.autoInc_fetched (s : State) (inc : Bool) (i : Reg) (v : Word) : (s.autoInc inc i v).fetched = s.fetched := by cases inc <;> rfl
@[simp] theorem State.autoInc_params (s : State) (inc : Bool) (i : Reg) (v : Word) : (s.autoInc inc i v).params = s.params := by cases inc <;> rfl

/-! ### Registers read back -/

/-- r0 reads as zero. -/
@[simp] theorem State.x_zero (s : State) : s.x 0#5 = 0#32 := rfl

/-- A general register after a write: r0 is zero, the register written holds the value, the others are kept. -/
theorem State.x_setX (s : State) (i j : Reg) (v : Word) :
    (s.setX i v).x j = if j = 0#5 then 0#32 else if j = i then v else s.x j := by
  unfold State.x State.setX
  by_cases hj : j = 0#5
  · simp [hj]
  · by_cases hi : i = 0#5
    · have : j ≠ i := fun h => hj (h.trans hi)
      simp [hj, hi]
    · by_cases h : j = i
      · subst h; simp [hj]
      · have hne : i.toNat ≠ j.toNat := fun e => h (BitVec.eq_of_toNat_eq e.symm)
        simp [hj, hi, h, Vector.getElem_set_ne, hne]

theorem State.x_setX_self (s : State) (i : Reg) (v : Word) : (s.setX i v).x i = if i = 0#5 then 0#32 else v := by
  simp [State.x_setX]

theorem State.x_setX_ne (s : State) (i j : Reg) (v : Word) (h : j ≠ i) : (s.setX i v).x j = s.x j := by
  rw [State.x_setX]
  by_cases hj : j = 0#5
  · subst hj; simp
  · simp [hj, h]

/-- A floating-point register after a write: f0 and f1 are zero. -/
theorem State.f_setF (s : State) (i j : Reg) (v : Word) :
    (s.setF i v).f j = if hardF j then 0#32 else if j = i then v else s.f j := by
  unfold State.f State.setF
  cases hj : hardF j with
  | true => simp
  | false =>
    cases hi : hardF i with
    | true =>
      have : j ≠ i := by rintro rfl; rw [hi] at hj; cases hj
      simp [this]
    | false =>
      by_cases h : j = i
      · subst h; simp
      · have hne : i.toNat ≠ j.toNat := fun e => h (BitVec.eq_of_toNat_eq e.symm)
        simp [h, Vector.getElem_set_ne, hne]

theorem State.f_setF_ne (s : State) (i j : Reg) (v : Word) (h : j ≠ i) : (s.setF i v).f j = s.f j := by
  rw [State.f_setF]
  cases hj : hardF j with
  | true => simp [State.f, hj]
  | false => simp [h]

/-- The two registers of a pair after both were written; every other one is kept. -/
theorem State.f_setPair (s : State) (i j : Reg) (low high : Word) :
    (s.setPair i low high).f j = if hardF j then 0#32 else if j = i + 1#5 then high else if j = i then low else s.f j := by
  unfold State.setPair
  rw [State.f_setF, State.f_setF]
  cases hardF j <;> simp

/-- An even register and its successor are both hard-wired or neither is. -/
theorem hardF_succ (i : Reg) (h : i.getLsbD 0 = false) : hardF (i + 1#5) = hardF i := by
  revert h; revert i; decide

theorem reg_succ_ne (i : Reg) : i ≠ i + 1#5 := by revert i; decide

/-- A pair read after it was written: zero in f0, the value elsewhere (R24, R25, R26). -/
theorem State.fd_setFd (s : State) (i : Reg) (v : Dword) (h : i.getLsbD 0 = false) :
    (s.setFd i v).fd i = if hardF i then 0#64 else v := by
  unfold State.fd State.setFd
  rw [State.f_setPair, State.f_setPair, hardF_succ i h]
  cases hh : hardF i with
  | true => simp
  | false =>
    have hne : i ≠ i + 1#5 := reg_succ_ne i
    simp only [hne, if_true, if_false, Bool.false_eq_true]
    apply BitVec.eq_of_getLsbD_eq
    intro k hk
    rw [BitVec.getLsbD_append, BitVec.getLsbD_extractLsb', BitVec.getLsbD_extractLsb']
    by_cases hk2 : k < 32
    · simp [hk2]
    · have : k - 32 < 32 := by omega
      have h3 : 32 + (k - 32) = k := by omega
      simp [hk2, this, h3]

/-- Another pair is kept. -/
theorem State.fd_setFd_ne (s : State) (i j : Reg) (v : Dword) (hi : i.getLsbD 0 = false) (hj : j.getLsbD 0 = false)
    (h : j ≠ i) : (s.setFd i v).fd j = s.fd j := by
  have h1 : j ≠ i + 1#5 := by revert hi hj; revert i j; decide
  have h2 : j + 1#5 ≠ i := by revert hi hj; revert i j; decide
  have h3 : j + 1#5 ≠ i + 1#5 := by intro e; exact h (by simpa using e)
  have e1 : (s.setFd i v).f j = s.f j := by
    unfold State.setFd State.setPair; rw [State.f_setF_ne _ _ _ _ h1, State.f_setF_ne _ _ _ _ h]
  have e2 : (s.setFd i v).f (j + 1#5) = s.f (j + 1#5) := by
    unfold State.setFd State.setPair; rw [State.f_setF_ne _ _ _ _ h3, State.f_setF_ne _ _ _ _ h2]
  unfold State.fd; rw [e1, e2]

@[simp] theorem State.x_setF (s : State) (i j : Reg) (v : Word) : (s.setF i v).x j = s.x j := rfl
@[simp] theorem State.f_setX (s : State) (i j : Reg) (v : Word) : (s.setX i v).f j = s.f j := rfl

/-! ### Flags read back -/

@[simp] theorem State.cc_setCC (s : State) (b : Bool) : (s.setCC b).cc = b := getLsbD_setBit_self _ 2 b (by decide)
@[simp] theorem State.lcc_setLCC (s : State) (b : Bool) : (s.setLCC b).lcc = b := getLsbD_setBit_self _ 3 b (by decide)
@[simp] theorem State.knf_clearKNF (s : State) : s.clearKNF.knf = false := getLsbD_setBit_self _ 15 false (by decide)
@[simp] theorem State.se_setSE (s : State) (b : Bool) : (s.setSE b).se = b := getLsbD_setBit_self _ 8 b (by decide)
@[simp] theorem State.ovf_setOF (s : State) (b : Bool) : (s.setOF b).ovf = b := getLsbD_setBit_self _ 24 b (by decide)
@[simp] theorem State.sc_setSC (s : State) (v : BitVec 5) : (s.setSC v).sc = v :=
  extractLsb'_setField_self _ 17 v (by decide)
@[simp] theorem State.pm_setPM (s : State) (v : BitVec 8) : (s.setPM v).pm = v :=
  extractLsb'_setField_self _ 24 v (by decide)

end Sys2Proof.Machine
end

