-- ==== Sys2Proof/Laws/Exec.lean ====
section
/-! SUPPORT. What a part of an instruction can do, said once for each shared operation: its outcome, and the invariant's part that
every operation keeps. -/

namespace Sys2Proof.Machine

/-! ### Exec -/

@[simp] theorem Exec.bind_done {α β : Type} (a : α) (s : State) (k : α → State → Exec β) : (Exec.done a s).bind k = k a s := rfl
@[simp] theorem Exec.bind_trapped {α β : Type} (s : State) (k : α → State → Exec β) : (Exec.trapped s).bind k = .trapped s := rfl
@[simp] theorem Exec.bind_faulted {α β : Type} (f : Fault) (k : α → State → Exec β) : (Exec.faulted f).bind k = .faulted f := rfl
@[simp] theorem Exec.bind_refused {α β : Type} (r : Refusal) (k : α → State → Exec β) : (Exec.refused r).bind k = .refused r := rfl

/-- A bind that completes: both its parts did. -/
theorem Exec.bind_eq_done {α β : Type} {x : Exec α} {k : α → State → Exec β} {b : β} {t : State} (h : x.bind k = .done b t) :
    ∃ a s, x = .done a s ∧ k a s = .done b t := by
  cases x with
  | done a s => exact ⟨a, s, rfl, h⟩
  | trapped s => cases h
  | faulted f => cases h
  | refused r => cases h

/-- A bind that traps: its first part did, or its second part did after the first completed. -/
theorem Exec.bind_eq_trapped {α β : Type} {x : Exec α} {k : α → State → Exec β} {t : State} (h : x.bind k = .trapped t) :
    x = .trapped t ∨ ∃ a s, x = .done a s ∧ k a s = .trapped t := by
  cases x with
  | done a s => exact .inr ⟨a, s, rfl, h⟩
  | trapped s => exact .inl (by injection h with h; rw [h])
  | faulted f => cases h
  | refused r => cases h

/-- The value and state of a completed part satisfy `D`, the state of a trapped one satisfies `T`. -/
def Exec.Sat {α : Type} (D : α → State → Prop) (T : State → Prop) : Exec α → Prop
  | .done a s => D a s
  | .trapped s => T s
  | .faulted _ => True
  | .refused _ => True

/-- `Sat` goes through a bind. -/
theorem Exec.Sat.bind {α β : Type} {D : α → State → Prop} {D' : β → State → Prop} {T : State → Prop} {x : Exec α}
    {k : α → State → Exec β} (hx : x.Sat D T) (hk : ∀ a s, D a s → (k a s).Sat D' T) : (x.bind k).Sat D' T := by
  cases x with
  | done a s => exact hk a s hx
  | trapped s => exact hx
  | faulted f => trivial
  | refused r => trivial

theorem Exec.Sat.mono {α : Type} {D D' : α → State → Prop} {T T' : State → Prop} {x : Exec α} (hx : x.Sat D T)
    (hD : ∀ a s, D a s → D' a s) (hT : ∀ s, T s → T' s) : x.Sat D' T' := by
  cases x with
  | done a s => exact hD a s hx
  | trapped s => exact hT s hx
  | faulted f => trivial
  | refused r => trivial

@[simp] theorem finish_done (pc : Word) (s : State) : finish pc (.done () s) = .next (s.endStep pc none) := rfl
@[simp] theorem finish_trapped (pc : Word) (s : State) : finish pc (.trapped s) = .next (s.endStep pc none) := rfl
@[simp] theorem finishAt_done (pc : Word) (t : Option Word) (s : State) : finishAt pc (.done t s) = .next (s.endStep pc t) := rfl
@[simp] theorem finishAt_trapped (pc : Word) (s : State) : finishAt pc (.trapped s) = .next (s.endStep pc none) := rfl

/-- A step that answers a next state completed or trapped before its end. -/
theorem finish_eq_next {pc : Word} {r : Exec Unit} {t : State} (h : finish pc r = .next t) :
    ∃ u, (r = .done () u ∨ r = .trapped u) ∧ t = u.endStep pc none := by
  cases r with
  | done a s => exact ⟨s, .inl rfl, by injection h with h; exact h.symm⟩
  | trapped s => exact ⟨s, .inr rfl, by injection h with h; exact h.symm⟩
  | faulted f => cases h
  | refused q => cases h

theorem finishAt_eq_next {pc : Word} {r : Exec (Option Word)} {t : State} (h : finishAt pc r = .next t) :
    ∃ u, (∃ a, r = .done a u ∧ t = u.endStep pc a) ∨ (r = .trapped u ∧ t = u.endStep pc none) := by
  cases r with
  | done a s => exact ⟨s, .inl ⟨a, rfl, by injection h with h; exact h.symm⟩⟩
  | trapped s => exact ⟨s, .inr ⟨rfl, by injection h with h; exact h.symm⟩⟩
  | faulted f => cases h
  | refused q => cases h

/-! ### The end of a step (R132, R441, R450) -/

/-- With no interrupt to recognise and no trap pending, a step ends by moving the pc. -/
theorem endStep_of_quiet {s : State} (pc : Word) (target : Option Word) (hi : (s.intPin && s.im) = false)
    (hs : s.pendSync = false) (he : s.pendExt = false) :
    s.endStep pc target = { s with pc := target.getD (pc + 4#32) } := by
  have : s.sampleInterrupt = s := by unfold State.sampleInterrupt; rw [hi]; rfl
  have hp : (s.pendSync || s.pendExt) = false := by rw [hs, he]; rfl
  unfold State.endStep; rw [this, hp]; rfl

/-- With a synchronous trap pending, a step ends by trap entry. -/
theorem endStep_of_pendSync {s : State} (pc : Word) (target : Option Word) (hs : s.pendSync = true) :
    s.endStep pc target = s.sampleInterrupt.trapEntry pc target := by
  have : s.sampleInterrupt.pendSync = true := by unfold State.sampleInterrupt; split <;> exact hs
  unfold State.endStep; rw [this]; rfl

/-- With an interrupt recognised, a step ends by trap entry. -/
theorem endStep_of_interrupt {s : State} (pc : Word) (target : Option Word) (hi : (s.intPin && s.im) = true) :
    s.endStep pc target = s.sampleInterrupt.trapEntry pc target := by
  have : s.sampleInterrupt.pendExt = true := by
    have h : (s.intPin && s.im && Config.intSample) = true := by rw [hi]; rfl
    unfold State.sampleInterrupt; rw [if_pos h]
  unfold State.endStep; rw [this, Bool.or_true]; rfl

/-- The sample writes psr.IN and the latch only. -/
theorem sampleInterrupt_cases (s : State) :
    s.sampleInterrupt = s ∨ s.sampleInterrupt = { s with psr := setBit s.psr 9 true, pendExt := true } := by
  unfold State.sampleInterrupt
  split
  · exact .inr rfl
  · exact .inl rfl

/-- The three ways a step ends. -/
theorem endStep_cases (s : State) (pc : Word) (target : Option Word) :
    (s.endStep pc target = { s with pc := target.getD (pc + 4#32) } ∧ s.pendSync = false ∧ s.pendExt = false) ∨
    s.endStep pc target = s.trapEntry pc target ∨
    s.endStep pc target = State.trapEntry { s with psr := setBit s.psr 9 true, pendExt := true } pc target := by
  unfold State.endStep
  rcases sampleInterrupt_cases s with h | h
  · rw [h]
    by_cases hp : (s.pendSync || s.pendExt) = true
    · rw [if_pos hp]; exact .inr (.inl rfl)
    · rw [if_neg hp]; simp only [Bool.not_eq_true, Bool.or_eq_false_iff] at hp; exact .inl ⟨rfl, hp.1, hp.2⟩
  · rw [h]; simp

/-! ### FP-escape instructions (R122, R133) -/

/-- With KNF clear an FP-escape instruction that DUAL_MODE_POLICY admits executes its rule. -/
theorem fpEscape_of_executes {d : Bool} {body : State → Exec Unit} {s : State} (h : Executes s d) :
    fpEscape d body s = body s := by
  unfold fpEscape; simp [h.1, h.2]

/-- With KNF set it is suppressed. -/
theorem fpEscape_of_knf_set {d : Bool} {body : State → Exec Unit} {s : State} (h : s.knf = true) :
    fpEscape d body s = .done () s.clearKNF := by
  unfold fpEscape; simp [h]

/-- With KNF clear and a D bit that DUAL_MODE_POLICY does not admit it is refused. -/
theorem fpEscape_of_not_admits {d : Bool} {body : State → Exec Unit} {s : State} (h : s.knf = false) (ha : s.admits d = false) :
    fpEscape d body s = .refused .dualInstructionMode := by
  unfold fpEscape; simp [h, ha]

/-- What is so of a rule and of its suppression is so of the FP-escape instruction. -/
theorem fpEscape_sat {D : Unit → State → Prop} {T : State → Prop} {d : Bool} {body : State → Exec Unit} {s : State}
    (hk : D () s.clearKNF) (hb : (body s).Sat D T) : (fpEscape d body s).Sat D T := by
  cases h : s.knf with
  | true => rw [fpEscape_of_knf_set h]; exact hk
  | false =>
    cases ha : s.admits d with
    | true => rw [fpEscape_of_executes ⟨h, ha⟩]; exact hb
    | false => rw [fpEscape_of_not_admits h ha]; trivial

/-! ### Data addresses (R79, R80, R90, R91, R92) -/

/-- An aligned access with no breakpoint is translated. -/
theorem dataAddress_of_checks {k : Nat} {kind : AccessKind} {va : Word} {s : State} (ha : aligned k va = true)
    (hb : (s.breakEnabled kind && s.breakMatch k va) = false) : dataAddress k kind va s = translate va kind s := by
  unfold dataAddress; simp [ha, hb]

theorem translate_of_ate_clear {va : Word} {kind : AccessKind} {s : State} (h : s.ate = false) :
    translate va kind s = .done va s := by
  unfold translate; simp [h]

theorem translate_of_ate_set {va : Word} {kind : AccessKind} {s : State} (h : s.ate = true) :
    translate va kind s = walk va kind s := by
  unfold translate; simp [h]

/-! ### Completion and trap entry (R132, R432, R436, R450) -/

/-- An instruction completes when it ends its step at a state with the effect. -/
theorem completes_of {i : Instr} {s u : State} {target : Option Word} {effect : State → Prop}
    (he : exec i s = .next (u.endStep s.pc target)) (hu : effect u) : Completes i s target effect :=
  ⟨u, hu, he, fun h1 h2 h3 => by rw [he, endStep_of_quiet _ _ h3 h1 h2]⟩

/-- The bits of psr after trap entry. -/
theorem getLsbD_psrAtTrapEntry (w : Word) (k : Nat) : (psrAtTrapEntry w).getLsbD k =
    if k = 4 ∨ k = 6 ∨ k = 13 ∨ k = 14 then false
    else if k = 5 then w.getLsbD 4 else if k = 7 then w.getLsbD 6 else w.getLsbD k := by
  unfold psrAtTrapEntry
  rw [getLsbD_setBit _ _ _ _ (by decide), getLsbD_setBit _ _ _ _ (by decide), getLsbD_setBit _ _ _ _ (by decide),
    getLsbD_setBit _ _ _ _ (by decide), getLsbD_setBit _ _ _ _ (by decide), getLsbD_setBit _ _ _ _ (by decide)]
  by_cases h13 : k = 13 <;> by_cases h14 : k = 14 <;> by_cases h4 : k = 4 <;> by_cases h6 : k = 6 <;>
    by_cases h5 : k = 5 <;> by_cases h7 : k = 7 <;> simp_all

/-- The bits of psr after the interrupt sample. -/
theorem getLsbD_sampleInterrupt (s : State) (k : Nat) : s.sampleInterrupt.psr.getLsbD k =
    if k = 9 then s.psr.getLsbD 9 || (s.intPin && s.im) else s.psr.getLsbD k := by
  unfold State.sampleInterrupt
  cases h : (s.intPin && s.im)
  · by_cases h9 : k = 9
    · subst h9; simp
    · simp [h9]
  · simp only [Config.intSample, Bool.and_true, if_true]
    rw [getLsbD_setBit _ _ _ _ (by decide)]; simp

/-- An FP-escape instruction of an accepted form executes its rule. -/
theorem requireAligned_of {ok : Bool} {k : State → Exec Unit} {s : State} (h : ok = true) : requireAligned ok k s = k s := by
  unfold requireAligned; rw [h]; rfl

theorem requirePair_of {ok : Bool} {k : State → Exec Unit} {s : State} (h : ok = true) : requirePair ok k s = k s := by
  unfold requirePair; rw [h]; rfl

/-! ### Results and status of the floating-point instructions -/

theorem asFpr_eq (r : Reg) (v : Word) : asFpr r v = if hardF r then 0#32 else v := by
  have : (r = 0#5 ∨ r = 1#5) ↔ hardF r = true := by revert r; decide
  unfold asFpr
  by_cases h : hardF r = true
  · rw [if_pos (this.mpr h), if_pos h]
  · rw [if_neg (fun e => h (this.mp e)), if_neg h]

/-- A result written to an aligned destination. -/
theorem fpWritten_fw {s t : State} {p : Prec} {dest : Reg} {v : Dword} (ha : alignedFor p dest = true) (ht : t.fpr = s.fpr) :
    FpWritten s p dest v (t.fw p dest v) := by
  have hf : ∀ q, t.f q = s.f q := fun q => by unfold State.f; rw [ht]
  cases p with
  | single =>
    refine ⟨fun q hq => ?_, ?_⟩
    · show (t.setF dest _).f q = _; rw [State.f_setF_ne _ _ _ _ hq, hf]
    · show (t.setF dest _).f dest = _; rw [State.f_setF, asFpr_eq]; simp
  | double =>
    refine ⟨fun q hq => ?_, ?_, ?_⟩
    · simp only [occupies, not_or] at hq
      show (t.setPair dest _ _).f q = _
      rw [State.f_setPair]; simp only [hq.1, hq.2, if_false]; rw [hf]; unfold State.f; split <;> rfl
    · show (t.setPair dest _ _).f dest = _; rw [State.f_setPair, asFpr_eq]; simp
    · show (t.setPair dest _ _).f (dest + 1#5) = _; rw [State.f_setPair, asFpr_eq]; simp

/-- Retiring an empty stage changes only the registers of the destination, and none when the destination is f0 or f1. -/
theorem retireEmpty_spec {r : Prec} {dest : Reg} {s t : State} (ht : t.fpr = s.fpr) :
    FprKeptBut (fun q => hardF dest = false ∧ occupies r dest q) s (t.retireEmpty r dest) ∧
      t.retireEmpty r dest = { t with fpr := (t.retireEmpty r dest).fpr, freeCount := (t.retireEmpty r dest).freeCount } := by
  have hf : ∀ q, t.f q = s.f q := fun q => by unfold State.f; rw [ht]
  have hn : ∀ q, t.nextFree.f q = s.f q := hf
  unfold State.retireEmpty
  cases hd : hardF dest with
  | true => exact ⟨fun q _ => hf q, rfl⟩
  | false =>
    cases r with
    | single =>
      refine ⟨fun q hq => ?_, rfl⟩
      simp only [occupies, true_and] at hq
      exact (State.f_setF_ne _ _ _ _ hq).trans (hn q)
    | double =>
      refine ⟨fun q hq => ?_, rfl⟩
      simp only [occupies, true_and, not_or] at hq
      refine Eq.trans ?_ (hn q)
      show (State.setPair _ dest _ _).f q = _
      rw [State.f_setPair]; simp only [hq.1, hq.2, if_false]; unfold State.f; split <;> rfl

/-- The entry leaving a pipeline is written, when its destination is aligned for it. -/
theorem retire_of_fits {e : Option Entry} {r : Prec} {dest : Reg} {s t : State} (h : retireFits e dest = true)
    (ht : t.fpr = s.fpr) : ∃ u, retire e r dest t = .done () u ∧ Retired s e r dest u ∧
      u = { t with fpr := u.fpr, freeCount := u.freeCount } := by
  cases e with
  | some en =>
    refine ⟨t.fw en.prec dest en.value, ?_, fpWritten_fw h ht, by cases en.prec <;> rfl⟩
    unfold retire; dsimp only; rw [if_pos (show alignedFor en.prec dest = true from h)]
  | none => exact ⟨t.retireEmpty r dest, rfl, (retireEmpty_spec ht).1, (retireEmpty_spec ht).2⟩

/-- A double entry whose destination is odd is refused. -/
theorem retire_of_misfit {e : Option Entry} {r : Prec} {dest : Reg} {s : State} (h : retireFits e dest = false) :
    retire e r dest s = .refused .misalignedFpRegister := by
  cases e with
  | some en => unfold retire; dsimp only; rw [if_neg (by rw [show alignedFor en.prec dest = false from h]; decide)]
  | none => cases h

theorem seIs_of {s u : State} {b : Bool} (h : u.fsr = setBit s.fsr 8 b) : SeIs b s u :=
  ⟨by rw [h, getLsbD_setBit_self _ _ _ (by decide)], fun k hk => by rw [h, getLsbD_setBit_ne _ _ _ _ (by decide) hk]⟩

theorem unitStatus_of {unit : FpUnit} {s u : State} {se o t i : Bool}
    (h : u.fsr = stickInexact i (setUnitBits unit o t i (setBit s.fsr 8 se))) : UnitStatus unit s se o t i u := by
  have hb : ∀ k, u.fsr.getLsbD k = if k = 7 ∧ i = true then true else if k = unit.iBit then i else if k = unit.uBit then t
      else if k = unit.oBit then o else if k = 8 then se else s.fsr.getLsbD k := by
    intro k; rw [h]; unfold stickInexact setUnitBits
    have ho : unit.oBit < 32 := by cases unit <;> decide
    have hu : unit.uBit < 32 := by cases unit <;> decide
    have hi : unit.iBit < 32 := by cases unit <;> decide
    cases i
    · simp only [Bool.false_eq_true, if_false, and_false]
      rw [getLsbD_setBit _ _ _ _ hi, getLsbD_setBit _ _ _ _ hu, getLsbD_setBit _ _ _ _ ho,
        getLsbD_setBit _ _ _ _ (by decide)]
    · simp only [if_true, and_true]
      rw [getLsbD_setBit _ _ _ _ (by decide), getLsbD_setBit _ _ _ _ hi, getLsbD_setBit _ _ _ _ hu,
        getLsbD_setBit _ _ _ _ ho, getLsbD_setBit _ _ _ _ (by decide)]
  refine ⟨?_, ?_, ?_, ?_, ?_, ?_⟩
  · rw [hb]; cases unit <;> simp [FpUnit.iBit, FpUnit.uBit, FpUnit.oBit]
  · rw [hb]; cases unit <;> simp [FpUnit.iBit, FpUnit.uBit, FpUnit.oBit]
  · rw [hb]; cases unit <;> simp [FpUnit.iBit, FpUnit.uBit]
  · rw [hb]; cases unit <;> simp [FpUnit.iBit]
  · rw [hb]; cases unit <;> cases i <;> simp [FpUnit.iBit, FpUnit.uBit, FpUnit.oBit]
  · intro k hk
    simp only [not_or] at hk
    rw [hb]; simp [hk]

end Sys2Proof.Machine
end

