-- ==== Sys2Proof/Laws/Access.lean ====
section
/-! SUPPORT. What the bus, a translation and a data access can do, each said once. -/

namespace Sys2Proof.Machine

/-! ### The two-level walk (R81 to R87) -/

/-- The page-directory entry of an address. -/
def State.pdeOf (s : State) (va : Word) : Word := s.mem.word s.params.fetchBigEndian (s.pdeAddr va)

/-- The page-table entry of an address. -/
def State.pteOf (s : State) (va : Word) : Word := s.mem.word s.params.fetchBigEndian (pteAddr (s.pdeOf va) va)

/-- Memory with the accessed bit of both entries of an address set. -/
def State.accessedMem (s : State) (va : Word) : Memory :=
  (s.mem.setWord s.params.fetchBigEndian (s.pdeAddr va) (s.pdeOf va ||| 0x20#32)).setWord s.params.fetchBigEndian
    (pteAddr (s.pdeOf va) va) (s.pteOf va ||| 0x20#32)

/-- The record of the walk's two reads, newest first. -/
def State.walkReads (s : State) (va : Word) : List BusAccess :=
  [readOf (pteAddr (s.pdeOf va) va) 4 (s.pteOf va), readOf (s.pdeAddr va) 4 (s.pdeOf va)]

/-- The record of the walk's two writes, newest first. -/
def State.walkWrites (s : State) (va : Word) : List BusAccess :=
  [writeOf (pteAddr (s.pdeOf va) va) 4 (s.pteOf va ||| 0x20#32), writeOf (s.pdeAddr va) 4 (s.pdeOf va ||| 0x20#32)]

/-- The state after a walk that wrote both accessed bits. -/
def State.afterWalk (s : State) (va : Word) : State :=
  { s with mem := s.accessedMem va, bus := s.walkWrites va ++ s.walkReads va ++ s.bus }

/-- A fetch that answers a word translated its aligned address for execution and read the word at the physical address (R94). -/
theorem fetch_eq_done {va w : Word} {s t : State} (h : fetch va s = .done w t) :
    ∃ pa u, aligned 2 va = true ∧ translate va .execute s = .done pa u ∧ w = u.mem.word s.params.fetchBigEndian pa ∧
      t = { u with bus := readOf pa 4 w :: u.bus, fetched := w } := by
  unfold fetch at h
  split at h
  · cases h
  · cases e : translate va .execute s <;> rw [e] at h <;> cases h
    exact ⟨_, _, by simp_all, rfl, rfl, rfl⟩

/-- A fetch that answers a word records it. -/
theorem fetched_of_fetch {va w : Word} {s t : State} (h : fetch va s = .done w t) : t.fetched = w := by
  obtain ⟨_, _, _, _, _, rfl⟩ := fetch_eq_done h
  rfl

/-- The walk, in terms of its two entries. -/
theorem walk_eq (va : Word) (kind : AccessKind) (s : State) : walk va kind s =
    if !s.entryPasses kind (s.pdeOf va) then
      raiseTranslation va kind { s with bus := readOf (s.pdeAddr va) 4 (s.pdeOf va) :: s.bus }
    else if !s.entryPasses kind (s.pteOf va) then raiseTranslation va kind { s with bus := s.walkReads va ++ s.bus }
    else if kind == .write && !entryDirty (s.pteOf va) then raiseTranslation va kind (s.afterWalk va)
    else .done (entryFrame (s.pteOf va) ||| (va &&& 0xFFF#32)) (s.afterWalk va) := rfl

/-- A translation that answers leaves the state as it was (translation off), or both accessed bits written. -/
theorem translate_eq_done {va : Word} {kind : AccessKind} {s t : State} {pa : Word} (h : translate va kind s = .done pa t) :
    (s.ate = false ∧ pa = va ∧ t = s) ∨
    (s.ate = true ∧ pa = (entryFrame (s.pteOf va) ||| (va &&& 0xFFF#32)) ∧ t = s.afterWalk va) := by
  cases ha : s.ate with
  | false => rw [translate_of_ate_clear ha] at h; injection h with h1 h2; exact .inl ⟨rfl, h1.symm, h2.symm⟩
  | true =>
    rw [translate_of_ate_set ha, walk_eq] at h
    split at h
    · cases kind <;> cases h
    split at h
    · cases kind <;> cases h
    split at h
    · cases kind <;> cases h
    · injection h with h1 h2; exact .inr ⟨rfl, h1.symm, h2.symm⟩

/-- A word written leaves every byte outside it alone. -/
theorem Memory.byteAt_setWord_of_ne {m : Memory} (h : m.wf = true) (big : Bool) (a v c : Word)
    (hc : ∀ k, k < 4 → c ≠ a + BitVec.ofNat 32 k) : (m.setWord big a v).byteAt c = m.byteAt c := by
  have h0 := hc 0 (by decide); have h1 := hc 1 (by decide); have h2 := hc 2 (by decide); have h3 := hc 3 (by decide)
  simp only [BitVec.add_zero] at h0 h1 h2 h3
  rw [Memory.byteAt_setWord h]; simp [h0, h1, h2, h3]

/-- Outside the two entries the walk's writes leave memory alone. -/
theorem accessedMem_byteAt {s : State} (ha : s.ate = true) (h : s.mem.wf = true) {va a : Word} (hb : ¬ tableByte s va a) :
    (s.accessedMem va).byteAt a = s.mem.byteAt a := by
  have hx : ∀ k, k < 4 → a ≠ s.pdeAddr va + BitVec.ofNat 32 k ∧ a ≠ pteAddr (s.pdeOf va) va + BitVec.ofNat 32 k := by
    intro k hk
    constructor <;> intro e
    · exact hb ⟨ha, k, hk, .inl e⟩
    · exact hb ⟨ha, k, hk, .inr e⟩
  unfold State.accessedMem
  rw [Memory.byteAt_setWord_of_ne (Memory.wf_setWord h _ _ _) _ _ _ _ fun k hk => (hx k hk).2,
    Memory.byteAt_setWord_of_ne h _ _ _ _ fun k hk => (hx k hk).1]

theorem accessedMem_wf {s : State} (h : s.mem.wf = true) (va : Word) : (s.accessedMem va).wf = true :=
  Memory.wf_setWord (Memory.wf_setWord h _ _ _) _ _ _

/-- What an access that goes through leaves: memory in canonical form and the same but for the accessed bits, the bus record longer,
and nothing else changed. -/
theorem accessible_state {k : Nat} {kind : AccessKind} {va pa : Word} {s t : State} (h : Accessible k kind va s pa t)
    (hm : s.mem.wf = true) : t = { s with mem := t.mem, bus := t.bus } ∧ t.mem.wf = true ∧ MemoryKeptButTables va s t := by
  rcases translate_eq_done h.2.2 with ⟨_, _, rfl⟩ | ⟨ha, _, rfl⟩
  · exact ⟨rfl, hm, fun _ _ => rfl⟩
  · exact ⟨rfl, accessedMem_wf hm va, fun a hb => accessedMem_byteAt ha hm hb⟩

/-- The checks of an access that goes through. -/
theorem dataAddress_of_accessible {k : Nat} {kind : AccessKind} {va pa : Word} {s t : State} (h : Accessible k kind va s pa t) :
    dataAddress k kind va s = .done pa t := by
  rw [dataAddress_of_checks h.1 h.2.1, h.2.2]

/-- The frame and the page offset of a physical address (R87). -/
theorem entryFrame_or_offset (e va : Word) :
    entryFrame e ||| (va &&& 0xFFF#32) = (e.extractLsb' 12 20 ++ va.extractLsb' 0 12 : BitVec 32) := by
  apply word_ext; intro j hj
  have a : ∀ j, j < 32 → (0xFFFFF000#32).getLsbD j = decide (12 ≤ j) := by decide
  have b : ∀ j, j < 32 → (0xFFF#32).getLsbD j = decide (j < 12) := by decide
  have h : (e.extractLsb' 12 20 ++ va.extractLsb' 0 12).getLsbD j = if j < 12 then va.getLsbD j else e.getLsbD j := by
    rw [BitVec.getLsbD_append]
    by_cases h : j < 12
    · simp [h]
    · have h1 : j - 12 < 20 := by omega
      have h2 : 12 + (j - 12) = j := by omega
      simp [h, h1, h2]
  refine Eq.trans ?_ h.symm
  unfold entryFrame
  rw [BitVec.getLsbD_or, BitVec.getLsbD_and, BitVec.getLsbD_and, a j hj, b j hj]
  by_cases h : j < 12
  · have : ¬ 12 ≤ j := by omega
    simp [h, this]
  · have : 12 ≤ j := by omega
    simp [h, this]

/-- The addresses of the two entries are multiples of 4. -/
theorem pdeAddr_low (s : State) (va : Word) : (s.pdeAddr va).extractLsb' 0 2 = 0#2 := by
  apply BitVec.eq_of_getLsbD_eq; intro j hj
  have : j = 0 ∨ j = 1 := by omega
  unfold State.pdeAddr
  rcases this with rfl | rfl <;>
    simp only [BitVec.getLsbD_extractLsb', BitVec.getLsbD_or, BitVec.getLsbD_and, BitVec.getLsbD_shiftLeft] <;> simp

theorem pteAddr_low (e va : Word) : (pteAddr e va).extractLsb' 0 2 = 0#2 := by
  apply BitVec.eq_of_getLsbD_eq; intro j hj
  have : j = 0 ∨ j = 1 := by omega
  unfold pteAddr entryFrame
  rcases this with rfl | rfl <;>
    simp only [BitVec.getLsbD_extractLsb', BitVec.getLsbD_or, BitVec.getLsbD_and, BitVec.getLsbD_shiftLeft] <;> simp

/-- Two different multiples of 4 name words with no byte in common. -/
theorem word_disjoint {a b : Word} (ha : a.extractLsb' 0 2 = 0#2) (hb : b.extractLsb' 0 2 = 0#2) (h : a ≠ b) {j k : Nat}
    (hj : j < 4) (hk : k < 4) : a + BitVec.ofNat 32 j ≠ b + BitVec.ofNat 32 k := by
  have h1 : a.toNat % 4 = 0 := by simpa [BitVec.extractLsb'_toNat] using congrArg BitVec.toNat ha
  have h2 : b.toNat % 4 = 0 := by simpa [BitVec.extractLsb'_toNat] using congrArg BitVec.toNat hb
  intro e
  apply h
  apply BitVec.eq_of_toNat_eq
  have e2 := congrArg BitVec.toNat e
  simp only [BitVec.toNat_add, BitVec.toNat_ofNat] at e2
  have := a.isLt; have := b.isLt
  omega

/-! ### Data accesses (R74, R91, R92) -/

/-- The checks of a misaligned access. -/
theorem dataAddress_of_misaligned {k : Nat} {kind : AccessKind} {va : Word} {s : State} (h : aligned k va = false) :
    dataAddress k kind va s = raise .dat .unaligned (.access va kind) s := by
  unfold dataAddress; rw [h]; rfl

/-- The checks of an aligned access at an enabled breakpoint. -/
theorem dataAddress_of_breakpoint {k : Nat} {kind : AccessKind} {va : Word} {s : State} (h : aligned k va = true)
    (hb : (s.breakEnabled kind && s.breakMatch k va) = true) :
    dataAddress k kind va s = raise .dat .breakpoint (.access va kind) s := by
  unfold dataAddress; rw [h, hb]; rfl

/-- A read that goes through. -/
theorem dataRead_of_accessible {n : BusSize} {va pa : Word} {s t : State} (h : Accessible n.log .read va s pa t) :
    dataRead n va s =
      .done (t.mem.busValue n t.be pa) (t.record (readOf pa n.bytes (t.mem.busValue n t.be pa))) := by
  unfold dataRead; rw [dataAddress_of_accessible h]; rfl

/-- A write that goes through. -/
theorem dataWrite_of_accessible {n : BusSize} {va pa v : Word} {s t : State} (h : Accessible n.log .write va s pa t) :
    dataWrite n va v s = .done () (busWrite n t.be pa v t) := by
  unfold dataWrite; rw [dataAddress_of_accessible h]; rfl

/-- Eight bytes read. -/
theorem busRead64_eq (pa : Word) (s : State) : busRead64 pa s =
    .done (joinWords s.be (s.mem.word s.be pa) (s.mem.word s.be (pa + 4#32)))
      { s with
        bus := readOf (pa + 4#32) 4 (s.mem.word s.be (pa + 4#32)) :: readOf pa 4 (s.mem.word s.be pa) :: s.bus } := rfl

/-- The two words of a value read. -/
theorem joinWords_low (big : Bool) (first second : Word) :
    (joinWords big first second).extractLsb' 0 32 = if big then second else first := by
  unfold joinWords
  cases big <;> simp <;> (apply BitVec.eq_of_getLsbD_eq; intro i hi; rw [BitVec.getLsbD_extractLsb', BitVec.getLsbD_append]; simp [hi])

theorem joinWords_high (big : Bool) (first second : Word) :
    (joinWords big first second).extractLsb' 32 32 = if big then first else second := by
  unfold joinWords
  cases big <;> simp <;> (apply BitVec.eq_of_getLsbD_eq; intro i hi; rw [BitVec.getLsbD_extractLsb', BitVec.getLsbD_append]; simp [hi])

/-- The byte order of data is not changed by a translation. -/
theorem be_of_accessible {k : Nat} {kind : AccessKind} {va pa : Word} {s t : State} (h : Accessible k kind va s pa t) :
    t.be = s.be := by
  rcases translate_eq_done h.2.2 with ⟨_, _, rfl⟩ | ⟨_, _, rfl⟩ <;> rfl

/-! ### Registers read back after a write -/

/-- Every general register after a write of one. -/
theorem x_setX_eq (s : State) (r q : Reg) (v : Word) : (s.setX r v).x q = if q = r then asGpr r v else s.x q := by
  by_cases h : q = r
  · subst h; rw [if_pos rfl]; unfold asGpr State.x State.setX
    by_cases h0 : q = 0#5
    · simp [h0]
    · simp [h0]
  · rw [if_neg h]; exact State.x_setX_ne _ _ _ _ h

/-- Every floating-point register after a write of one. -/
theorem f_setF_eq (s : State) (r q : Reg) (v : Word) : (s.setF r v).f q = if q = r then asFpr r v else s.f q := by
  by_cases h : q = r
  · subst h; rw [if_pos rfl, asFpr_eq, State.f_setF]; simp
  · rw [if_neg h]; exact State.f_setF_ne _ _ _ _ h

/-- The auto-increment. -/
theorem autoIncremented_autoInc {s u : State} (inc : Bool) (src2 : Reg) (ea : Word) (h : u.gpr = s.gpr) :
    AutoIncremented inc src2 ea s (u.autoInc inc src2 ea) := by
  have hx : ∀ q, u.x q = s.x q := fun q => by unfold State.x; rw [h]
  cases inc with
  | false => exact hx
  | true =>
    refine ⟨?_, fun q hq => ?_⟩
    · show (u.setX _ _).x _ = _; rw [x_setX_eq, if_pos rfl]
    · show (u.setX _ _).x _ = _; rw [x_setX_eq, if_neg hq]; exact hx q

end Sys2Proof.Machine
end

