-- ==== Sys2Proof/Laws/Encoding.lean ====
section
/-! SUPPORT. What the decoder's field extractions read back from a word laid out by each of the encoder's formats (R112). -/

namespace Sys2Proof

/-- The high part of a concatenation, from its low bit on. -/
theorem extract_high {n m k : Nat} (x : BitVec n) (y : BitVec m) (h : k = m) : (x ++ y).extractLsb' k n = x := by
  subst h; rw [BitVec.extractLsb'_append_eq_of_le (Nat.le_refl _), Nat.sub_self, BitVec.extractLsb'_eq_self]

/-- Within the high part. -/
theorem extract_in_high {n m k l : Nat} (x : BitVec n) (y : BitVec m) (h : m ≤ k) :
    (x ++ y).extractLsb' k l = x.extractLsb' (k - m) l := BitVec.extractLsb'_append_eq_of_le h

/-- Within the low part. -/
theorem extract_in_low {n m k l : Nat} (x : BitVec n) (y : BitVec m) (h : k + l ≤ m) :
    (x ++ y).extractLsb' k l = y.extractLsb' k l := BitVec.extractLsb'_append_eq_of_add_le h

/-- A bit of the low part. -/
theorem bit_in_low {n m k : Nat} (x : BitVec n) (y : BitVec m) (h : k < m) : (x ++ y).getLsbD k = y.getLsbD k := by
  rw [BitVec.getLsbD_append, if_pos h]

/-- A bit of the high part. -/
theorem bit_in_high {n m k : Nat} (x : BitVec n) (y : BitVec m) (h : m ≤ k) : (x ++ y).getLsbD k = x.getLsbD (k - m) := by
  rw [BitVec.getLsbD_append, if_neg (by omega)]

/-! ### The REG format -/

@[simp] theorem primaryOf_regWord (op : BitVec 6) (src2 dest src1 : Reg) (low : BitVec 11) :
    primaryOf (regWord op src2 dest src1 low) = op := by
  have h : (op ++ src2 ++ dest ++ src1 ++ low).extractLsb' 26 6 = op := by
    rw [extract_in_high _ _ (by decide), extract_in_high _ _ (by decide), extract_in_high _ _ (by decide), extract_high _ _ rfl]
  exact h

@[simp] theorem src2Of_regWord (op : BitVec 6) (src2 dest src1 : Reg) (low : BitVec 11) :
    src2Of (regWord op src2 dest src1 low) = src2 := by
  have h : (op ++ src2 ++ dest ++ src1 ++ low).extractLsb' 21 5 = src2 := by
    rw [extract_in_high _ _ (by decide), extract_in_high _ _ (by decide), extract_in_high _ _ (by decide), extract_in_low _ _ (by decide)]
    exact BitVec.extractLsb'_eq_self
  exact h

@[simp] theorem destOf_regWord (op : BitVec 6) (src2 dest src1 : Reg) (low : BitVec 11) :
    destOf (regWord op src2 dest src1 low) = dest := by
  have h : (op ++ src2 ++ dest ++ src1 ++ low).extractLsb' 16 5 = dest := by
    rw [extract_in_high _ _ (by decide), extract_in_high _ _ (by decide), extract_in_low _ _ (by decide)]
    exact BitVec.extractLsb'_eq_self
  exact h

@[simp] theorem src1Of_regWord (op : BitVec 6) (src2 dest src1 : Reg) (low : BitVec 11) :
    src1Of (regWord op src2 dest src1 low) = src1 := by
  have h : (op ++ src2 ++ dest ++ src1 ++ low).extractLsb' 11 5 = src1 := by
    rw [extract_in_high _ _ (by decide), extract_in_low _ _ (by decide)]
    exact BitVec.extractLsb'_eq_self
  exact h

theorem regWord_low {k l : Nat} (op : BitVec 6) (src2 dest src1 : Reg) (low : BitVec 11) (h : k + l ≤ 11) :
    (regWord op src2 dest src1 low).extractLsb' k l = low.extractLsb' k l :=
  extract_in_low (op ++ src2 ++ dest ++ src1) low h

theorem regWord_bit {k : Nat} (op : BitVec 6) (src2 dest src1 : Reg) (low : BitVec 11) (h : k < 11) :
    (regWord op src2 dest src1 low).getLsbD k = low.getLsbD k :=
  bit_in_low (op ++ src2 ++ dest ++ src1) low h

/-! ### The REG format with an immediate -/

@[simp] theorem primaryOf_immWord (op : BitVec 6) (src2 dest : Reg) (imm : BitVec 16) :
    primaryOf (immWord op src2 dest imm) = op := by
  have h : (op ++ src2 ++ dest ++ imm).extractLsb' 26 6 = op := by
    rw [extract_in_high _ _ (by decide), extract_in_high _ _ (by decide), extract_high _ _ rfl]
  exact h

@[simp] theorem src2Of_immWord (op : BitVec 6) (src2 dest : Reg) (imm : BitVec 16) :
    src2Of (immWord op src2 dest imm) = src2 := by
  have h : (op ++ src2 ++ dest ++ imm).extractLsb' 21 5 = src2 := by
    rw [extract_in_high _ _ (by decide), extract_in_high _ _ (by decide), extract_in_low _ _ (by decide)]
    exact BitVec.extractLsb'_eq_self
  exact h

@[simp] theorem destOf_immWord (op : BitVec 6) (src2 dest : Reg) (imm : BitVec 16) :
    destOf (immWord op src2 dest imm) = dest := by
  have h : (op ++ src2 ++ dest ++ imm).extractLsb' 16 5 = dest := by
    rw [extract_in_high _ _ (by decide), extract_in_low _ _ (by decide)]
    exact BitVec.extractLsb'_eq_self
  exact h

@[simp] theorem imm16Of_immWord (op : BitVec 6) (src2 dest : Reg) (imm : BitVec 16) :
    imm16Of (immWord op src2 dest imm) = imm := by
  have h : (op ++ src2 ++ dest ++ imm).extractLsb' 0 16 = imm := by
    rw [extract_in_low _ _ (by decide)]
    exact BitVec.extractLsb'_eq_self
  exact h

theorem immWord_low {k l : Nat} (op : BitVec 6) (src2 dest : Reg) (imm : BitVec 16) (h : k + l ≤ 16) :
    (immWord op src2 dest imm).extractLsb' k l = imm.extractLsb' k l :=
  extract_in_low (op ++ src2 ++ dest) imm h

theorem immWord_bit {k : Nat} (op : BitVec 6) (src2 dest : Reg) (imm : BitVec 16) (h : k < 16) :
    (immWord op src2 dest imm).getLsbD k = imm.getLsbD k :=
  bit_in_low (op ++ src2 ++ dest) imm h

/-! ### The SPLIT format -/

@[simp] theorem primaryOf_splitWord (op : BitVec 6) (src2 src1 : Reg) (imm : BitVec 16) :
    primaryOf (splitWord op src2 src1 imm) = op := by
  have h : (op ++ src2 ++ imm.extractLsb' 11 5 ++ src1 ++ imm.extractLsb' 0 11).extractLsb' 26 6 = op := by
    rw [extract_in_high _ _ (by decide), extract_in_high _ _ (by decide), extract_in_high _ _ (by decide), extract_high _ _ rfl]
  exact h

@[simp] theorem src2Of_splitWord (op : BitVec 6) (src2 src1 : Reg) (imm : BitVec 16) :
    src2Of (splitWord op src2 src1 imm) = src2 := by
  have h : (op ++ src2 ++ imm.extractLsb' 11 5 ++ src1 ++ imm.extractLsb' 0 11).extractLsb' 21 5 = src2 := by
    rw [extract_in_high _ _ (by decide), extract_in_high _ _ (by decide), extract_in_high _ _ (by decide), extract_in_low _ _ (by decide)]
    exact BitVec.extractLsb'_eq_self
  exact h

@[simp] theorem src1Of_splitWord (op : BitVec 6) (src2 src1 : Reg) (imm : BitVec 16) :
    src1Of (splitWord op src2 src1 imm) = src1 := by
  have h : (op ++ src2 ++ imm.extractLsb' 11 5 ++ src1 ++ imm.extractLsb' 0 11).extractLsb' 11 5 = src1 := by
    rw [extract_in_high _ _ (by decide), extract_in_low _ _ (by decide)]
    exact BitVec.extractLsb'_eq_self
  exact h

theorem splitWord_eq (op : BitVec 6) (src2 src1 : Reg) (imm : BitVec 16) :
    splitWord op src2 src1 imm = regWord op src2 (imm.extractLsb' 11 5) src1 (imm.extractLsb' 0 11) := rfl

@[simp] theorem split16Of_splitWord (op : BitVec 6) (src2 src1 : Reg) (imm : BitVec 16) : split16Of (splitWord op src2 src1 imm) = imm := by
  unfold split16Of
  rw [splitWord_eq, destOf_regWord, regWord_low _ _ _ _ _ (by decide), BitVec.extractLsb'_eq_self]
  refine BitVec.eq_of_getLsbD_eq fun j hj => ?_
  rw [BitVec.getLsbD_append]
  by_cases h : j < 11
  · simp [h]
  · have h5 : j - 11 < 5 := by omega
    have h11 : 11 + (j - 11) = j := by omega
    simp [h, h5, h11]

@[simp] theorem split15Of_splitWord (op : BitVec 6) (src2 src1 : Reg) (imm : BitVec 15) (b : BitVec 1) :
    split15Of (splitWord op src2 src1 (imm ++ b)) = imm := by
  unfold split15Of
  rw [splitWord_eq, destOf_regWord, regWord_low _ _ _ _ _ (by decide)]
  refine BitVec.eq_of_getLsbD_eq fun j hj => ?_
  rw [BitVec.getLsbD_append]
  by_cases h : j < 10
  · rw [if_pos h, BitVec.getLsbD_extractLsb', BitVec.getLsbD_extractLsb', BitVec.getLsbD_append, if_neg (by omega)]
    have h11 : 1 + j < 11 := by omega
    simp [h, h11]
  · rw [if_neg h, BitVec.getLsbD_extractLsb', BitVec.getLsbD_append, if_neg (by omega)]
    have h5 : j - 10 < 5 := by omega
    have hj' : 11 + (j - 10) - 1 = j := by omega
    simp [h5, hj']

theorem splitWord_bit_zero (op : BitVec 6) (src2 src1 : Reg) (imm : BitVec 15) (b : BitVec 1) :
    (splitWord op src2 src1 (imm ++ b)).getLsbD 0 = b.getLsbD 0 := by
  rw [splitWord_eq, regWord_bit _ _ _ _ _ (by decide), BitVec.getLsbD_extractLsb', BitVec.getLsbD_append]; simp

/-! ### The LBR and core-escape formats -/

@[simp] theorem primaryOf_lbrWord (op : BitVec 6) (off : BitVec 26) :
    primaryOf (lbrWord op off) = op := by
  have h : (op ++ off).extractLsb' 26 6 = op := by
    rw [extract_high _ _ rfl]
  exact h

@[simp] theorem lbroffOf_lbrWord (op : BitVec 6) (off : BitVec 26) :
    lbroffOf (lbrWord op off) = off := by
  have h : (op ++ off).extractLsb' 0 26 = off := by
    rw [extract_in_low _ _ (by decide)]
    exact BitVec.extractLsb'_eq_self
  exact h

@[simp] theorem primaryOf_coreEscapeWord (src1 : Reg) (code : BitVec 3) :
    primaryOf (coreEscapeWord src1 code) = 0x13#6 := by
  have h : (0x13#6 ++ 0#5 ++ 0#5 ++ src1 ++ 0#8 ++ code).extractLsb' 26 6 = 0x13#6 := by
    rw [extract_in_high _ _ (by decide), extract_in_high _ _ (by decide), extract_in_high _ _ (by decide), extract_in_high _ _ (by decide), extract_high _ _ rfl]
  exact h

@[simp] theorem src1Of_coreEscapeWord (src1 : Reg) (code : BitVec 3) :
    src1Of (coreEscapeWord src1 code) = src1 := by
  have h : (0x13#6 ++ 0#5 ++ 0#5 ++ src1 ++ 0#8 ++ code).extractLsb' 11 5 = src1 := by
    rw [extract_in_high _ _ (by decide), extract_in_high _ _ (by decide), extract_in_low _ _ (by decide)]
    exact BitVec.extractLsb'_eq_self
  exact h

@[simp] theorem codeOf_coreEscapeWord (src1 : Reg) (code : BitVec 3) :
    BitVec.extractLsb' 0 3 (coreEscapeWord src1 code) = code := by
  have h : (0x13#6 ++ 0#5 ++ 0#5 ++ src1 ++ 0#8 ++ code).extractLsb' 0 3 = code := by
    rw [extract_in_low _ _ (by decide)]
    exact BitVec.extractLsb'_eq_self
  exact h

/-! ### The FP-escape format -/

theorem bit_ofBool (b : Bool) : (BitVec.ofBool b).getLsbD 0 = b := by cases b <;> rfl

@[simp] theorem primaryOf_fpWord (src2 dest src1 : Reg) (p d s r : Bool) (op : BitVec 7) :
    primaryOf (fpWord src2 dest src1 p d s r op) = 0x12#6 := by
  have h : (0x12#6 ++ src2 ++ dest ++ src1 ++ BitVec.ofBool p ++ BitVec.ofBool d ++ BitVec.ofBool s ++ BitVec.ofBool r ++ op).extractLsb' 26 6 = 0x12#6 := by
    rw [extract_in_high _ _ (by decide), extract_in_high _ _ (by decide), extract_in_high _ _ (by decide), extract_in_high _ _ (by decide), extract_in_high _ _ (by decide), extract_in_high _ _ (by decide), extract_in_high _ _ (by decide), extract_high _ _ rfl]
  exact h

@[simp] theorem src2Of_fpWord (src2 dest src1 : Reg) (p d s r : Bool) (op : BitVec 7) :
    src2Of (fpWord src2 dest src1 p d s r op) = src2 := by
  have h : (0x12#6 ++ src2 ++ dest ++ src1 ++ BitVec.ofBool p ++ BitVec.ofBool d ++ BitVec.ofBool s ++ BitVec.ofBool r ++ op).extractLsb' 21 5 = src2 := by
    rw [extract_in_high _ _ (by decide), extract_in_high _ _ (by decide), extract_in_high _ _ (by decide), extract_in_high _ _ (by decide), extract_in_high _ _ (by decide), extract_in_high _ _ (by decide), extract_in_high _ _ (by decide), extract_in_low _ _ (by decide)]
    exact BitVec.extractLsb'_eq_self
  exact h

@[simp] theorem destOf_fpWord (src2 dest src1 : Reg) (p d s r : Bool) (op : BitVec 7) :
    destOf (fpWord src2 dest src1 p d s r op) = dest := by
  have h : (0x12#6 ++ src2 ++ dest ++ src1 ++ BitVec.ofBool p ++ BitVec.ofBool d ++ BitVec.ofBool s ++ BitVec.ofBool r ++ op).extractLsb' 16 5 = dest := by
    rw [extract_in_high _ _ (by decide), extract_in_high _ _ (by decide), extract_in_high _ _ (by decide), extract_in_high _ _ (by decide), extract_in_high _ _ (by decide), extract_in_high _ _ (by decide), extract_in_low _ _ (by decide)]
    exact BitVec.extractLsb'_eq_self
  exact h

@[simp] theorem src1Of_fpWord (src2 dest src1 : Reg) (p d s r : Bool) (op : BitVec 7) :
    src1Of (fpWord src2 dest src1 p d s r op) = src1 := by
  have h : (0x12#6 ++ src2 ++ dest ++ src1 ++ BitVec.ofBool p ++ BitVec.ofBool d ++ BitVec.ofBool s ++ BitVec.ofBool r ++ op).extractLsb' 11 5 = src1 := by
    rw [extract_in_high _ _ (by decide), extract_in_high _ _ (by decide), extract_in_high _ _ (by decide), extract_in_high _ _ (by decide), extract_in_high _ _ (by decide), extract_in_low _ _ (by decide)]
    exact BitVec.extractLsb'_eq_self
  exact h

@[simp] theorem opOf_fpWord (src2 dest src1 : Reg) (p d s r : Bool) (op : BitVec 7) :
    BitVec.extractLsb' 0 7 (fpWord src2 dest src1 p d s r op) = op := by
  have h : (0x12#6 ++ src2 ++ dest ++ src1 ++ BitVec.ofBool p ++ BitVec.ofBool d ++ BitVec.ofBool s ++ BitVec.ofBool r ++ op).extractLsb' 0 7 = op := by
    rw [extract_in_low _ _ (by decide)]
    exact BitVec.extractLsb'_eq_self
  exact h

@[simp] theorem bit10_fpWord (src2 dest src1 : Reg) (p d s r : Bool) (op : BitVec 7) : (fpWord src2 dest src1 p d s r op).getLsbD 10 = p := by
  have h : (0x12#6 ++ src2 ++ dest ++ src1 ++ BitVec.ofBool p ++ BitVec.ofBool d ++ BitVec.ofBool s ++ BitVec.ofBool r ++ op).getLsbD 10 = p := by
    rw [bit_in_high _ _ (by decide), bit_in_high _ _ (by decide), bit_in_high _ _ (by decide), bit_in_high _ _ (by decide), bit_in_low _ _ (by decide)]
    exact bit_ofBool p
  exact h

@[simp] theorem bit9_fpWord (src2 dest src1 : Reg) (p d s r : Bool) (op : BitVec 7) : (fpWord src2 dest src1 p d s r op).getLsbD 9 = d := by
  have h : (0x12#6 ++ src2 ++ dest ++ src1 ++ BitVec.ofBool p ++ BitVec.ofBool d ++ BitVec.ofBool s ++ BitVec.ofBool r ++ op).getLsbD 9 = d := by
    rw [bit_in_high _ _ (by decide), bit_in_high _ _ (by decide), bit_in_high _ _ (by decide), bit_in_low _ _ (by decide)]
    exact bit_ofBool d
  exact h

@[simp] theorem bit8_fpWord (src2 dest src1 : Reg) (p d s r : Bool) (op : BitVec 7) : (fpWord src2 dest src1 p d s r op).getLsbD 8 = s := by
  have h : (0x12#6 ++ src2 ++ dest ++ src1 ++ BitVec.ofBool p ++ BitVec.ofBool d ++ BitVec.ofBool s ++ BitVec.ofBool r ++ op).getLsbD 8 = s := by
    rw [bit_in_high _ _ (by decide), bit_in_high _ _ (by decide), bit_in_low _ _ (by decide)]
    exact bit_ofBool s
  exact h

@[simp] theorem bit7_fpWord (src2 dest src1 : Reg) (p d s r : Bool) (op : BitVec 7) : (fpWord src2 dest src1 p d s r op).getLsbD 7 = r := by
  have h : (0x12#6 ++ src2 ++ dest ++ src1 ++ BitVec.ofBool p ++ BitVec.ofBool d ++ BitVec.ofBool s ++ BitVec.ofBool r ++ op).getLsbD 7 = r := by
    rw [bit_in_high _ _ (by decide), bit_in_low _ _ (by decide)]
    exact bit_ofBool r
  exact h

theorem fpWord_low {k l : Nat} (src2 dest src1 : Reg) (p d s r : Bool) (op : BitVec 7) (h : k + l ≤ 7) :
    (fpWord src2 dest src1 p d s r op).extractLsb' k l = op.extractLsb' k l :=
  extract_in_low (0x12#6 ++ src2 ++ dest ++ src1 ++ BitVec.ofBool p ++ BitVec.ofBool d ++ BitVec.ofBool s ++ BitVec.ofBool r) op h

@[simp] theorem precOf_bit (p : Prec) : precOf p.bit = p := by cases p <;> rfl

/-! ### The parts of an immediate that holds size and auto-increment bits (R119), and of a dual operation's opcode (R380) -/

theorem disp13_of_imm16 (imm : BitVec 13) (x : BitVec 2) (y : BitVec 1) : (imm ++ x ++ y : BitVec 16).extractLsb' 3 13 = imm := by
  have h : (imm ++ x ++ y).extractLsb' 3 13 = imm := by
    rw [extract_in_high _ _ (by decide), extract_high _ _ rfl]
  exact h

theorem disp14_of_imm16 (imm : BitVec 14) (x y : BitVec 1) :
    (imm ++ x ++ y : BitVec 16).extractLsb' 2 14 = imm := by
  have h : (imm ++ x ++ y).extractLsb' 2 14 = imm := by
    rw [extract_in_high _ _ (by decide), extract_high _ _ rfl]
  exact h

theorem disp15_of_imm16 (imm : BitVec 15) (y : BitVec 1) : (imm ++ y : BitVec 16).extractLsb' 1 15 = imm := extract_high _ _ rfl

theorem bit_zero_ofBool {n : Nat} (imm : BitVec n) (y : Bool) : (imm ++ BitVec.ofBool y).getLsbD 0 = y := by
  rw [bit_in_low _ _ (by decide), bit_ofBool]

theorem bit_zero_append {n : Nat} (imm : BitVec n) (y : BitVec 1) : (imm ++ y).getLsbD 0 = y.getLsbD 0 := by
  rw [bit_in_low _ _ (by decide)]

theorem imm16_bit1_of_size (imm : BitVec 13) (x : BitVec 2) (y : BitVec 1) : (imm ++ x ++ y : BitVec 16).getLsbD 1 = x.getLsbD 0 := by
  have h : (imm ++ x ++ y).getLsbD 1 = x.getLsbD 0 := by
    rw [bit_in_high _ _ (by decide), bit_in_low _ _ (by decide)]
  exact h

theorem imm16_bit2_of_size (imm : BitVec 13) (x : BitVec 2) (y : BitVec 1) : (imm ++ x ++ y : BitVec 16).getLsbD 2 = x.getLsbD 1 := by
  have h : (imm ++ x ++ y).getLsbD 2 = x.getLsbD 1 := by
    rw [bit_in_high _ _ (by decide), bit_in_low _ _ (by decide)]
  exact h

theorem imm16_bit1_of_long (imm : BitVec 14) (x : BitVec 1) (y : BitVec 1) : (imm ++ x ++ y : BitVec 16).getLsbD 1 = x.getLsbD 0 := by
  have h : (imm ++ x ++ y).getLsbD 1 = x.getLsbD 0 := by
    rw [bit_in_high _ _ (by decide), bit_in_low _ _ (by decide)]
  exact h

theorem fmemLow_bits (size : BitVec 2) (inc : Bool) : (fmemLow size inc).getLsbD 1 = size.getLsbD 0 ∧ (fmemLow size inc).getLsbD 2 = size.getLsbD 1 ∧ (fmemLow size inc).getLsbD 0 = inc := by
  have h1 : (0#8 ++ size ++ BitVec.ofBool inc).getLsbD 1 = size.getLsbD 0 := by
    rw [bit_in_high _ _ (by decide), bit_in_low _ _ (by decide)]
  have h2 : (0#8 ++ size ++ BitVec.ofBool inc).getLsbD 2 = size.getLsbD 1 := by
    rw [bit_in_high _ _ (by decide), bit_in_low _ _ (by decide)]
  exact ⟨h1, h2, bit_zero_ofBool _ _⟩

theorem dualOp_kind (k : BitVec 3) (dpc : BitVec 4) : (k ++ dpc : BitVec 7).extractLsb' 4 3 = k := extract_high _ _ rfl

theorem dualOp_dpc (k : BitVec 3) (dpc : BitVec 4) : (k ++ dpc : BitVec 7).extractLsb' 0 4 = dpc := by
  have h := extract_in_low (k := 0) (l := 4) k dpc (by decide)
  rw [BitVec.extractLsb'_eq_self] at h; exact h

end Sys2Proof
end

