-- ==== Sys2Proof/Laws/PerInstr.lean ====
section
/-! SUPPORT. Statements made for every instruction: the word an instruction encodes to has the fixed bits of its row of
spec/opcode_table.json. -/

namespace Sys2Proof

/-! ### The fixed bits of each format -/

theorem and_allOnes6 (op : BitVec 6) : op &&& 0x3F#6 = op := BitVec.and_allOnes

theorem and_zero_append {n m : Nat} (x : BitVec n) (y z : BitVec m) : (x ++ y) &&& (0#n ++ z) = 0#n ++ (y &&& z) := by
  rw [BitVec.and_append, BitVec.and_zero]

theorem regWord_and (op : BitVec 6) (src2 dest src1 : Reg) (low m : BitVec 11) :
    regWord op src2 dest src1 low &&& regWord 0x3F#6 0#5 0#5 0#5 m = regWord op 0#5 0#5 0#5 (low &&& m) := by
  have h : (op ++ src2 ++ dest ++ src1 ++ low) &&& (0x3F#6 ++ 0#5 ++ 0#5 ++ 0#5 ++ m) =
      op ++ 0#5 ++ 0#5 ++ 0#5 ++ (low &&& m) := by
    simp only [BitVec.and_append, BitVec.and_zero, and_allOnes6]
  exact h

theorem immWord_and (op : BitVec 6) (src2 dest : Reg) (imm m : BitVec 16) :
    immWord op src2 dest imm &&& immWord 0x3F#6 0#5 0#5 m = immWord op 0#5 0#5 (imm &&& m) := by
  have h : (op ++ src2 ++ dest ++ imm) &&& (0x3F#6 ++ 0#5 ++ 0#5 ++ m) = op ++ 0#5 ++ 0#5 ++ (imm &&& m) := by
    simp only [BitVec.and_append, BitVec.and_zero, and_allOnes6]
  exact h

theorem lbrWord_and (op : BitVec 6) (off : BitVec 26) : lbrWord op off &&& lbrWord 0x3F#6 0#26 = lbrWord op 0#26 := by
  have h : (op ++ off) &&& (0x3F#6 ++ 0#26) = op ++ 0#26 := by
    simp only [BitVec.and_append, BitVec.and_zero, and_allOnes6]
  exact h

theorem coreEscapeWord_and (src1 : Reg) (code : BitVec 3) :
    coreEscapeWord src1 code &&& (0x3F#6 ++ 0#5 ++ 0#5 ++ 0#5 ++ 0#8 ++ 7#3 : BitVec 32) = coreEscapeWord 0#5 code := by
  have h : (0x13#6 ++ 0#5 ++ 0#5 ++ src1 ++ 0#8 ++ code) &&& (0x3F#6 ++ 0#5 ++ 0#5 ++ 0#5 ++ 0#8 ++ 7#3) =
      0x13#6 ++ 0#5 ++ 0#5 ++ 0#5 ++ 0#8 ++ code := by
    have h7 : code &&& 7#3 = code := BitVec.and_allOnes
    simp only [BitVec.and_append, BitVec.and_zero, and_allOnes6, h7]
  exact h

theorem splitWord_and (op : BitVec 6) (src2 src1 : Reg) (imm : BitVec 16) (m : BitVec 11) :
    splitWord op src2 src1 imm &&& regWord 0x3F#6 0#5 0#5 0#5 m = regWord op 0#5 0#5 0#5 (imm.extractLsb' 0 11 &&& m) :=
  regWord_and op src2 (imm.extractLsb' 11 5) src1 (imm.extractLsb' 0 11) m

theorem fpWord_and (src2 dest src1 : Reg) (p d s r : Bool) (op : BitVec 7) (ms mr : Bool) (mo : BitVec 7) :
    fpWord src2 dest src1 p d s r op &&&
      (0x3F#6 ++ 0#5 ++ 0#5 ++ 0#5 ++ 1#1 ++ 0#1 ++ BitVec.ofBool ms ++ BitVec.ofBool mr ++ mo : BitVec 32) =
    fpWord 0#5 0#5 0#5 p false (s && ms) (r && mr) (op &&& mo) := by
  have hp : BitVec.ofBool p &&& 1#1 = BitVec.ofBool p := BitVec.and_allOnes
  have hd : BitVec.ofBool d &&& 0#1 = BitVec.ofBool false := BitVec.and_zero
  have hs : BitVec.ofBool s &&& BitVec.ofBool ms = BitVec.ofBool (s && ms) := by cases s <;> cases ms <;> rfl
  have hr : BitVec.ofBool r &&& BitVec.ofBool mr = BitVec.ofBool (r && mr) := by cases r <;> cases mr <;> rfl
  have h : (0x12#6 ++ src2 ++ dest ++ src1 ++ BitVec.ofBool p ++ BitVec.ofBool d ++ BitVec.ofBool s ++ BitVec.ofBool r ++ op) &&&
      (0x3F#6 ++ 0#5 ++ 0#5 ++ 0#5 ++ 1#1 ++ 0#1 ++ BitVec.ofBool ms ++ BitVec.ofBool mr ++ mo) =
      0x12#6 ++ 0#5 ++ 0#5 ++ 0#5 ++ BitVec.ofBool p ++ BitVec.ofBool false ++ BitVec.ofBool (s && ms) ++ BitVec.ofBool (r && mr) ++ (op &&& mo) := by
    simp only [BitVec.and_append, BitVec.and_zero, and_allOnes6, hp, hd, hs, hr]
  exact h

theorem sizeInc_and (imm : BitVec 13) (size : BitVec 2) (inc : Bool) :
    (imm ++ size ++ BitVec.ofBool inc : BitVec 16) &&& 6#16 = 0#13 ++ size ++ 0#1 := by
  have h : (imm ++ size ++ BitVec.ofBool inc) &&& (0#13 ++ 3#2 ++ 0#1) = 0#13 ++ size ++ 0#1 := by
    have h3 : size &&& 3#2 = size := BitVec.and_allOnes
    simp only [BitVec.and_append, BitVec.and_zero, h3]
  exact h

theorem longInc_and (imm : BitVec 14) (inc : Bool) :
    (imm ++ 1#1 ++ BitVec.ofBool inc : BitVec 16) &&& 2#16 = 2#16 := by
  have h : (imm ++ 1#1 ++ BitVec.ofBool inc) &&& (0#14 ++ 1#1 ++ 0#1) = 0#14 ++ 1#1 ++ 0#1 := by
    simp only [BitVec.and_append, BitVec.and_zero, BitVec.and_self]
  exact h

theorem splitSize_and (imm : BitVec 15) (size : BitVec 1) :
    (imm ++ size : BitVec 16).extractLsb' 0 11 &&& 1#11 = (0#10 ++ size : BitVec 11) := by
  refine BitVec.eq_of_getLsbD_eq fun j hj => ?_
  rcases Nat.eq_zero_or_pos j with rfl | hp
  · rw [BitVec.getLsbD_and, BitVec.getLsbD_extractLsb', BitVec.getLsbD_append, BitVec.getLsbD_append]; simp
  · have h1 : (1#11).getLsbD j = false := by
      simp [BitVec.getLsbD_one]; omega
    have h2 : ¬ j < 1 := by omega
    rw [BitVec.getLsbD_and, h1, Bool.and_false, BitVec.getLsbD_append]; simp [h2]

end Sys2Proof

namespace Sys2Proof.Laws.TableRow

/-- The bits that the instruction's row of the opcode table fixes. -/
def rowMask : Instr → Word
  | .ldbR .. => 0xFC000000#32
  | .ldbI .. => 0xFC000000#32
  | .ixfr .. => 0xFC000000#32
  | .stb .. => 0xFC000000#32
  | .ldsR .. => 0xFC000001#32
  | .ldlR .. => 0xFC000001#32
  | .ldsI .. => 0xFC000001#32
  | .ldlI .. => 0xFC000001#32
  | .sts .. => 0xFC000001#32
  | .stl .. => 0xFC000001#32
  | .flddR .. => 0xFC000006#32
  | .fldlR .. => 0xFC000002#32
  | .fldqR .. => 0xFC000006#32
  | .flddI .. => 0xFC000006#32
  | .fldlI .. => 0xFC000002#32
  | .fldqI .. => 0xFC000006#32
  | .fstdR .. => 0xFC000006#32
  | .fstlR .. => 0xFC000002#32
  | .fstqR .. => 0xFC000006#32
  | .fstdI .. => 0xFC000006#32
  | .fstlI .. => 0xFC000002#32
  | .fstqI .. => 0xFC000006#32
  | .ldc .. => 0xFC000000#32
  | .flush .. => 0xFC000000#32
  | .stc .. => 0xFC000000#32
  | .pstd .. => 0xFC000006#32
  | .bri .. => 0xFC000000#32
  | .trap .. => 0xFC000000#32
  | .btneR .. => 0xFC000000#32
  | .btneI .. => 0xFC000000#32
  | .bteR .. => 0xFC000000#32
  | .bteI .. => 0xFC000000#32
  | .pflddR .. => 0xFC000006#32
  | .pfldlR .. => 0xFC000002#32
  | .pflddI .. => 0xFC000006#32
  | .pfldlI .. => 0xFC000002#32
  | .br .. => 0xFC000000#32
  | .call .. => 0xFC000000#32
  | .bc .. => 0xFC000000#32
  | .bct .. => 0xFC000000#32
  | .bnc .. => 0xFC000000#32
  | .bnct .. => 0xFC000000#32
  | .adduR .. => 0xFC000000#32
  | .adduI .. => 0xFC000000#32
  | .subuR .. => 0xFC000000#32
  | .subuI .. => 0xFC000000#32
  | .addsR .. => 0xFC000000#32
  | .addsI .. => 0xFC000000#32
  | .subsR .. => 0xFC000000#32
  | .subsI .. => 0xFC000000#32
  | .shlR .. => 0xFC000000#32
  | .shlI .. => 0xFC000000#32
  | .shrR .. => 0xFC000000#32
  | .shrI .. => 0xFC000000#32
  | .shraR .. => 0xFC000000#32
  | .shraI .. => 0xFC000000#32
  | .andR .. => 0xFC000000#32
  | .andI .. => 0xFC000000#32
  | .andnotR .. => 0xFC000000#32
  | .andnotI .. => 0xFC000000#32
  | .orR .. => 0xFC000000#32
  | .orI .. => 0xFC000000#32
  | .xorR .. => 0xFC000000#32
  | .xorI .. => 0xFC000000#32
  | .shrd .. => 0xFC000000#32
  | .bla .. => 0xFC000000#32
  | .andh .. => 0xFC000000#32
  | .andnoth .. => 0xFC000000#32
  | .orh .. => 0xFC000000#32
  | .xorh .. => 0xFC000000#32
  | .lock => 0xFC000007#32
  | .calli .. => 0xFC000007#32
  | .intovr => 0xFC000007#32
  | .unlock => 0xFC000007#32
  | .pfmam .. => 0xFC000470#32
  | .pfmsm .. => 0xFC000470#32
  | .pfam .. => 0xFC000470#32
  | .pfsm .. => 0xFC000470#32
  | .fmul .. => 0xFC00047F#32
  | .pfmul .. => 0xFC00047F#32
  | .fmlow .. => 0xFC0005FF#32
  | .frcp .. => 0xFC00047F#32
  | .frsqr .. => 0xFC00047F#32
  | .pfmul3 .. => 0xFC0005FF#32
  | .fadd .. => 0xFC00047F#32
  | .pfadd .. => 0xFC00047F#32
  | .fsub .. => 0xFC00047F#32
  | .pfsub .. => 0xFC00047F#32
  | .fix .. => 0xFC00047F#32
  | .pfix .. => 0xFC00047F#32
  | .famov .. => 0xFC00047F#32
  | .pfamov .. => 0xFC00047F#32
  | .ftrunc .. => 0xFC00047F#32
  | .pftrunc .. => 0xFC00047F#32
  | .pfgt .. => 0xFC0004FF#32
  | .pfle .. => 0xFC0004FF#32
  | .pfeq .. => 0xFC00047F#32
  | .fxfr .. => 0xFC00047F#32
  | .fiadd .. => 0xFC00047F#32
  | .pfiadd .. => 0xFC00047F#32
  | .fisub .. => 0xFC00047F#32
  | .pfisub .. => 0xFC00047F#32
  | .faddp .. => 0xFC00047F#32
  | .pfaddp .. => 0xFC00047F#32
  | .faddz .. => 0xFC00047F#32
  | .pfaddz .. => 0xFC00047F#32
  | .fzchkl .. => 0xFC00047F#32
  | .pfzchkl .. => 0xFC00047F#32
  | .form .. => 0xFC00047F#32
  | .pform .. => 0xFC00047F#32
  | .fzchks .. => 0xFC00047F#32
  | .pfzchks .. => 0xFC00047F#32

/-- Their values. -/
def rowMatch : Instr → Word
  | .ldbR .. => 0x00000000#32
  | .ldbI .. => 0x04000000#32
  | .ixfr .. => 0x08000000#32
  | .stb .. => 0x0C000000#32
  | .ldsR .. => 0x10000000#32
  | .ldlR .. => 0x10000001#32
  | .ldsI .. => 0x14000000#32
  | .ldlI .. => 0x14000001#32
  | .sts .. => 0x1C000000#32
  | .stl .. => 0x1C000001#32
  | .flddR .. => 0x20000000#32
  | .fldlR .. => 0x20000002#32
  | .fldqR .. => 0x20000004#32
  | .flddI .. => 0x24000000#32
  | .fldlI .. => 0x24000002#32
  | .fldqI .. => 0x24000004#32
  | .fstdR .. => 0x28000000#32
  | .fstlR .. => 0x28000002#32
  | .fstqR .. => 0x28000004#32
  | .fstdI .. => 0x2C000000#32
  | .fstlI .. => 0x2C000002#32
  | .fstqI .. => 0x2C000004#32
  | .ldc .. => 0x30000000#32
  | .flush .. => 0x34000000#32
  | .stc .. => 0x38000000#32
  | .pstd .. => 0x3C000000#32
  | .bri .. => 0x40000000#32
  | .trap .. => 0x44000000#32
  | .btneR .. => 0x50000000#32
  | .btneI .. => 0x54000000#32
  | .bteR .. => 0x58000000#32
  | .bteI .. => 0x5C000000#32
  | .pflddR .. => 0x60000000#32
  | .pfldlR .. => 0x60000002#32
  | .pflddI .. => 0x64000000#32
  | .pfldlI .. => 0x64000002#32
  | .br .. => 0x68000000#32
  | .call .. => 0x6C000000#32
  | .bc .. => 0x70000000#32
  | .bct .. => 0x74000000#32
  | .bnc .. => 0x78000000#32
  | .bnct .. => 0x7C000000#32
  | .adduR .. => 0x80000000#32
  | .adduI .. => 0x84000000#32
  | .subuR .. => 0x88000000#32
  | .subuI .. => 0x8C000000#32
  | .addsR .. => 0x90000000#32
  | .addsI .. => 0x94000000#32
  | .subsR .. => 0x98000000#32
  | .subsI .. => 0x9C000000#32
  | .shlR .. => 0xA0000000#32
  | .shlI .. => 0xA4000000#32
  | .shrR .. => 0xA8000000#32
  | .shrI .. => 0xAC000000#32
  | .shraR .. => 0xB8000000#32
  | .shraI .. => 0xBC000000#32
  | .andR .. => 0xC0000000#32
  | .andI .. => 0xC4000000#32
  | .andnotR .. => 0xD0000000#32
  | .andnotI .. => 0xD4000000#32
  | .orR .. => 0xE0000000#32
  | .orI .. => 0xE4000000#32
  | .xorR .. => 0xF0000000#32
  | .xorI .. => 0xF4000000#32
  | .shrd .. => 0xB0000000#32
  | .bla .. => 0xB4000000#32
  | .andh .. => 0xCC000000#32
  | .andnoth .. => 0xDC000000#32
  | .orh .. => 0xEC000000#32
  | .xorh .. => 0xFC000000#32
  | .lock => 0x4C000001#32
  | .calli .. => 0x4C000002#32
  | .intovr => 0x4C000004#32
  | .unlock => 0x4C000007#32
  | .pfmam .. => 0x48000000#32
  | .pfmsm .. => 0x48000010#32
  | .pfam .. => 0x48000400#32
  | .pfsm .. => 0x48000410#32
  | .fmul .. => 0x48000020#32
  | .pfmul .. => 0x48000420#32
  | .fmlow .. => 0x480001A1#32
  | .frcp .. => 0x48000022#32
  | .frsqr .. => 0x48000023#32
  | .pfmul3 .. => 0x480005A4#32
  | .fadd .. => 0x48000030#32
  | .pfadd .. => 0x48000430#32
  | .fsub .. => 0x48000031#32
  | .pfsub .. => 0x48000431#32
  | .fix .. => 0x48000032#32
  | .pfix .. => 0x48000432#32
  | .famov .. => 0x48000033#32
  | .pfamov .. => 0x48000433#32
  | .ftrunc .. => 0x4800003A#32
  | .pftrunc .. => 0x4800043A#32
  | .pfgt .. => 0x48000434#32
  | .pfle .. => 0x480004B4#32
  | .pfeq .. => 0x48000435#32
  | .fxfr .. => 0x48000040#32
  | .fiadd .. => 0x48000049#32
  | .pfiadd .. => 0x48000449#32
  | .fisub .. => 0x4800004D#32
  | .pfisub .. => 0x4800044D#32
  | .faddp .. => 0x48000050#32
  | .pfaddp .. => 0x48000450#32
  | .faddz .. => 0x48000051#32
  | .pfaddz .. => 0x48000451#32
  | .fzchkl .. => 0x48000057#32
  | .pfzchkl .. => 0x48000457#32
  | .form .. => 0x4800005A#32
  | .pform .. => 0x4800045A#32
  | .fzchks .. => 0x4800005F#32
  | .pfzchks .. => 0x4800045F#32

/-- The word of an instruction has its row's fixed bits. -/
def Statement (i : Instr) : Prop := encode i &&& rowMask i = rowMatch i

theorem ldbR (src1 : Reg) (src2 : Reg) (dest : Reg) : Statement (.ldbR src1 src2 dest) :=
  regWord_and _ _ _ _ _ 0#11
theorem ldbI (imm : BitVec 16) (src2 : Reg) (dest : Reg) : Statement (.ldbI imm src2 dest) :=
  (immWord_and _ _ _ _ 0#16).trans (congrArg (immWord _ 0#5 0#5) BitVec.and_zero)
theorem ixfr (src1 : Reg) (fdest : Reg) : Statement (.ixfr src1 fdest) :=
  regWord_and _ _ _ _ _ 0#11
theorem stb (src1 : Reg) (imm : BitVec 16) (src2 : Reg) : Statement (.stb src1 imm src2) :=
  (splitWord_and _ _ _ _ 0#11).trans (congrArg (regWord _ 0#5 0#5 0#5) BitVec.and_zero)
theorem ldsR (src1 : Reg) (src2 : Reg) (dest : Reg) : Statement (.ldsR src1 src2 dest) :=
  regWord_and _ _ _ _ _ 1#11
theorem ldlR (src1 : Reg) (src2 : Reg) (dest : Reg) : Statement (.ldlR src1 src2 dest) :=
  regWord_and _ _ _ _ _ 1#11
theorem ldsI (imm : BitVec 15) (src2 : Reg) (dest : Reg) : Statement (.ldsI imm src2 dest) :=
  (immWord_and _ _ _ _ 1#16).trans (congrArg (immWord _ 0#5 0#5) (and_zero_append imm _ 1#1))
theorem ldlI (imm : BitVec 15) (src2 : Reg) (dest : Reg) : Statement (.ldlI imm src2 dest) :=
  (immWord_and _ _ _ _ 1#16).trans (congrArg (immWord _ 0#5 0#5) (and_zero_append imm _ 1#1))
theorem sts (src1 : Reg) (imm : BitVec 15) (src2 : Reg) : Statement (.sts src1 imm src2) :=
  (splitWord_and _ _ _ _ 1#11).trans (congrArg (regWord _ 0#5 0#5 0#5) (splitSize_and imm _))
theorem stl (src1 : Reg) (imm : BitVec 15) (src2 : Reg) : Statement (.stl src1 imm src2) :=
  (splitWord_and _ _ _ _ 1#11).trans (congrArg (regWord _ 0#5 0#5 0#5) (splitSize_and imm _))
theorem flddR (src1 : Reg) (src2 : Reg) (fdest : Reg) (inc : Bool) : Statement (.flddR src1 src2 fdest inc) := by
  refine (regWord_and _ _ _ _ _ 6#11).trans ?_
  cases inc <;> rfl
theorem fldlR (src1 : Reg) (src2 : Reg) (fdest : Reg) (inc : Bool) : Statement (.fldlR src1 src2 fdest inc) := by
  refine (regWord_and _ _ _ _ _ 2#11).trans ?_
  cases inc <;> rfl
theorem fldqR (src1 : Reg) (src2 : Reg) (fdest : Reg) (inc : Bool) : Statement (.fldqR src1 src2 fdest inc) := by
  refine (regWord_and _ _ _ _ _ 6#11).trans ?_
  cases inc <;> rfl
theorem flddI (imm : BitVec 13) (src2 : Reg) (fdest : Reg) (inc : Bool) : Statement (.flddI imm src2 fdest inc) :=
  (immWord_and _ _ _ _ 6#16).trans (congrArg (immWord _ 0#5 0#5) (sizeInc_and imm _ inc))
theorem fldlI (imm : BitVec 14) (src2 : Reg) (fdest : Reg) (inc : Bool) : Statement (.fldlI imm src2 fdest inc) :=
  (immWord_and _ _ _ _ 2#16).trans (congrArg (immWord _ 0#5 0#5) (longInc_and imm inc))
theorem fldqI (imm : BitVec 13) (src2 : Reg) (fdest : Reg) (inc : Bool) : Statement (.fldqI imm src2 fdest inc) :=
  (immWord_and _ _ _ _ 6#16).trans (congrArg (immWord _ 0#5 0#5) (sizeInc_and imm _ inc))
theorem fstdR (src1 : Reg) (src2 : Reg) (fdest : Reg) (inc : Bool) : Statement (.fstdR src1 src2 fdest inc) := by
  refine (regWord_and _ _ _ _ _ 6#11).trans ?_
  cases inc <;> rfl
theorem fstlR (src1 : Reg) (src2 : Reg) (fdest : Reg) (inc : Bool) : Statement (.fstlR src1 src2 fdest inc) := by
  refine (regWord_and _ _ _ _ _ 2#11).trans ?_
  cases inc <;> rfl
theorem fstqR (src1 : Reg) (src2 : Reg) (fdest : Reg) (inc : Bool) : Statement (.fstqR src1 src2 fdest inc) := by
  refine (regWord_and _ _ _ _ _ 6#11).trans ?_
  cases inc <;> rfl
theorem fstdI (imm : BitVec 13) (src2 : Reg) (fdest : Reg) (inc : Bool) : Statement (.fstdI imm src2 fdest inc) :=
  (immWord_and _ _ _ _ 6#16).trans (congrArg (immWord _ 0#5 0#5) (sizeInc_and imm _ inc))
theorem fstlI (imm : BitVec 14) (src2 : Reg) (fdest : Reg) (inc : Bool) : Statement (.fstlI imm src2 fdest inc) :=
  (immWord_and _ _ _ _ 2#16).trans (congrArg (immWord _ 0#5 0#5) (longInc_and imm inc))
theorem fstqI (imm : BitVec 13) (src2 : Reg) (fdest : Reg) (inc : Bool) : Statement (.fstqI imm src2 fdest inc) :=
  (immWord_and _ _ _ _ 6#16).trans (congrArg (immWord _ 0#5 0#5) (sizeInc_and imm _ inc))
theorem ldc (csrc2 : Reg) (dest : Reg) : Statement (.ldc csrc2 dest) :=
  regWord_and _ _ _ _ _ 0#11
theorem flush (imm : BitVec 15) (src2 : Reg) (dest : Reg) (inc : Bool) : Statement (.flush imm src2 dest inc) :=
  (immWord_and _ _ _ _ 0#16).trans (congrArg (immWord _ 0#5 0#5) BitVec.and_zero)
theorem stc (src1 : Reg) (csrc2 : Reg) : Statement (.stc src1 csrc2) :=
  regWord_and _ _ _ _ _ 0#11
theorem pstd (fdest : Reg) (imm : BitVec 13) (src2 : Reg) (inc : Bool) : Statement (.pstd fdest imm src2 inc) :=
  (immWord_and _ _ _ _ 6#16).trans (congrArg (immWord _ 0#5 0#5) (sizeInc_and imm _ inc))
theorem bri (src1 : Reg) : Statement (.bri src1) :=
  regWord_and _ _ _ _ _ 0#11
theorem trap (src1 : Reg) (src2 : Reg) (dest : Reg) : Statement (.trap src1 src2 dest) :=
  regWord_and _ _ _ _ _ 0#11
theorem btneR (src1 : Reg) (src2 : Reg) (sbroff : BitVec 16) : Statement (.btneR src1 src2 sbroff) :=
  (splitWord_and _ _ _ _ 0#11).trans (congrArg (regWord _ 0#5 0#5 0#5) BitVec.and_zero)
theorem btneI (const5 : BitVec 5) (src2 : Reg) (sbroff : BitVec 16) : Statement (.btneI const5 src2 sbroff) :=
  (splitWord_and _ _ _ _ 0#11).trans (congrArg (regWord _ 0#5 0#5 0#5) BitVec.and_zero)
theorem bteR (src1 : Reg) (src2 : Reg) (sbroff : BitVec 16) : Statement (.bteR src1 src2 sbroff) :=
  (splitWord_and _ _ _ _ 0#11).trans (congrArg (regWord _ 0#5 0#5 0#5) BitVec.and_zero)
theorem bteI (const5 : BitVec 5) (src2 : Reg) (sbroff : BitVec 16) : Statement (.bteI const5 src2 sbroff) :=
  (splitWord_and _ _ _ _ 0#11).trans (congrArg (regWord _ 0#5 0#5 0#5) BitVec.and_zero)
theorem pflddR (src1 : Reg) (src2 : Reg) (fdest : Reg) (inc : Bool) : Statement (.pflddR src1 src2 fdest inc) := by
  refine (regWord_and _ _ _ _ _ 6#11).trans ?_
  cases inc <;> rfl
theorem pfldlR (src1 : Reg) (src2 : Reg) (fdest : Reg) (inc : Bool) : Statement (.pfldlR src1 src2 fdest inc) := by
  refine (regWord_and _ _ _ _ _ 2#11).trans ?_
  cases inc <;> rfl
theorem pflddI (imm : BitVec 13) (src2 : Reg) (fdest : Reg) (inc : Bool) : Statement (.pflddI imm src2 fdest inc) :=
  (immWord_and _ _ _ _ 6#16).trans (congrArg (immWord _ 0#5 0#5) (sizeInc_and imm _ inc))
theorem pfldlI (imm : BitVec 14) (src2 : Reg) (fdest : Reg) (inc : Bool) : Statement (.pfldlI imm src2 fdest inc) :=
  (immWord_and _ _ _ _ 2#16).trans (congrArg (immWord _ 0#5 0#5) (longInc_and imm inc))
theorem br (lbroff : BitVec 26) : Statement (.br lbroff) :=
  lbrWord_and _ _
theorem call (lbroff : BitVec 26) : Statement (.call lbroff) :=
  lbrWord_and _ _
theorem bc (lbroff : BitVec 26) : Statement (.bc lbroff) :=
  lbrWord_and _ _
theorem bct (lbroff : BitVec 26) : Statement (.bct lbroff) :=
  lbrWord_and _ _
theorem bnc (lbroff : BitVec 26) : Statement (.bnc lbroff) :=
  lbrWord_and _ _
theorem bnct (lbroff : BitVec 26) : Statement (.bnct lbroff) :=
  lbrWord_and _ _
theorem adduR (src1 : Reg) (src2 : Reg) (dest : Reg) : Statement (.adduR src1 src2 dest) :=
  regWord_and _ _ _ _ _ 0#11
theorem adduI (imm : BitVec 16) (src2 : Reg) (dest : Reg) : Statement (.adduI imm src2 dest) :=
  (immWord_and _ _ _ _ 0#16).trans (congrArg (immWord _ 0#5 0#5) BitVec.and_zero)
theorem subuR (src1 : Reg) (src2 : Reg) (dest : Reg) : Statement (.subuR src1 src2 dest) :=
  regWord_and _ _ _ _ _ 0#11
theorem subuI (imm : BitVec 16) (src2 : Reg) (dest : Reg) : Statement (.subuI imm src2 dest) :=
  (immWord_and _ _ _ _ 0#16).trans (congrArg (immWord _ 0#5 0#5) BitVec.and_zero)
theorem addsR (src1 : Reg) (src2 : Reg) (dest : Reg) : Statement (.addsR src1 src2 dest) :=
  regWord_and _ _ _ _ _ 0#11
theorem addsI (imm : BitVec 16) (src2 : Reg) (dest : Reg) : Statement (.addsI imm src2 dest) :=
  (immWord_and _ _ _ _ 0#16).trans (congrArg (immWord _ 0#5 0#5) BitVec.and_zero)
theorem subsR (src1 : Reg) (src2 : Reg) (dest : Reg) : Statement (.subsR src1 src2 dest) :=
  regWord_and _ _ _ _ _ 0#11
theorem subsI (imm : BitVec 16) (src2 : Reg) (dest : Reg) : Statement (.subsI imm src2 dest) :=
  (immWord_and _ _ _ _ 0#16).trans (congrArg (immWord _ 0#5 0#5) BitVec.and_zero)
theorem shlR (src1 : Reg) (src2 : Reg) (dest : Reg) : Statement (.shlR src1 src2 dest) :=
  regWord_and _ _ _ _ _ 0#11
theorem shlI (imm : BitVec 16) (src2 : Reg) (dest : Reg) : Statement (.shlI imm src2 dest) :=
  (immWord_and _ _ _ _ 0#16).trans (congrArg (immWord _ 0#5 0#5) BitVec.and_zero)
theorem shrR (src1 : Reg) (src2 : Reg) (dest : Reg) : Statement (.shrR src1 src2 dest) :=
  regWord_and _ _ _ _ _ 0#11
theorem shrI (imm : BitVec 16) (src2 : Reg) (dest : Reg) : Statement (.shrI imm src2 dest) :=
  (immWord_and _ _ _ _ 0#16).trans (congrArg (immWord _ 0#5 0#5) BitVec.and_zero)
theorem shraR (src1 : Reg) (src2 : Reg) (dest : Reg) : Statement (.shraR src1 src2 dest) :=
  regWord_and _ _ _ _ _ 0#11
theorem shraI (imm : BitVec 16) (src2 : Reg) (dest : Reg) : Statement (.shraI imm src2 dest) :=
  (immWord_and _ _ _ _ 0#16).trans (congrArg (immWord _ 0#5 0#5) BitVec.and_zero)
theorem andR (src1 : Reg) (src2 : Reg) (dest : Reg) : Statement (.andR src1 src2 dest) :=
  regWord_and _ _ _ _ _ 0#11
theorem andI (imm : BitVec 16) (src2 : Reg) (dest : Reg) : Statement (.andI imm src2 dest) :=
  (immWord_and _ _ _ _ 0#16).trans (congrArg (immWord _ 0#5 0#5) BitVec.and_zero)
theorem andnotR (src1 : Reg) (src2 : Reg) (dest : Reg) : Statement (.andnotR src1 src2 dest) :=
  regWord_and _ _ _ _ _ 0#11
theorem andnotI (imm : BitVec 16) (src2 : Reg) (dest : Reg) : Statement (.andnotI imm src2 dest) :=
  (immWord_and _ _ _ _ 0#16).trans (congrArg (immWord _ 0#5 0#5) BitVec.and_zero)
theorem orR (src1 : Reg) (src2 : Reg) (dest : Reg) : Statement (.orR src1 src2 dest) :=
  regWord_and _ _ _ _ _ 0#11
theorem orI (imm : BitVec 16) (src2 : Reg) (dest : Reg) : Statement (.orI imm src2 dest) :=
  (immWord_and _ _ _ _ 0#16).trans (congrArg (immWord _ 0#5 0#5) BitVec.and_zero)
theorem xorR (src1 : Reg) (src2 : Reg) (dest : Reg) : Statement (.xorR src1 src2 dest) :=
  regWord_and _ _ _ _ _ 0#11
theorem xorI (imm : BitVec 16) (src2 : Reg) (dest : Reg) : Statement (.xorI imm src2 dest) :=
  (immWord_and _ _ _ _ 0#16).trans (congrArg (immWord _ 0#5 0#5) BitVec.and_zero)
theorem shrd (src1 : Reg) (src2 : Reg) (dest : Reg) : Statement (.shrd src1 src2 dest) :=
  regWord_and _ _ _ _ _ 0#11
theorem bla (src1 : Reg) (src2 : Reg) (sbroff : BitVec 16) : Statement (.bla src1 src2 sbroff) :=
  (splitWord_and _ _ _ _ 0#11).trans (congrArg (regWord _ 0#5 0#5 0#5) BitVec.and_zero)
theorem andh (imm : BitVec 16) (src2 : Reg) (dest : Reg) : Statement (.andh imm src2 dest) :=
  (immWord_and _ _ _ _ 0#16).trans (congrArg (immWord _ 0#5 0#5) BitVec.and_zero)
theorem andnoth (imm : BitVec 16) (src2 : Reg) (dest : Reg) : Statement (.andnoth imm src2 dest) :=
  (immWord_and _ _ _ _ 0#16).trans (congrArg (immWord _ 0#5 0#5) BitVec.and_zero)
theorem orh (imm : BitVec 16) (src2 : Reg) (dest : Reg) : Statement (.orh imm src2 dest) :=
  (immWord_and _ _ _ _ 0#16).trans (congrArg (immWord _ 0#5 0#5) BitVec.and_zero)
theorem xorh (imm : BitVec 16) (src2 : Reg) (dest : Reg) : Statement (.xorh imm src2 dest) :=
  (immWord_and _ _ _ _ 0#16).trans (congrArg (immWord _ 0#5 0#5) BitVec.and_zero)
theorem lock : Statement (.lock) :=
  coreEscapeWord_and _ _
theorem calli (src1 : Reg) : Statement (.calli src1) :=
  coreEscapeWord_and _ _
theorem intovr : Statement (.intovr) :=
  coreEscapeWord_and _ _
theorem unlock : Statement (.unlock) :=
  coreEscapeWord_and _ _
theorem pfmam (dpc : BitVec 4) (o : Fp3) : Statement (.pfmam dpc o) := by
  refine (fpWord_and _ _ _ _ _ _ _ _ false false (7#3 ++ 0#4)).trans ?_
  rw [BitVec.and_append, BitVec.and_zero, Bool.and_false, Bool.and_false]; rfl
theorem pfmsm (dpc : BitVec 4) (o : Fp3) : Statement (.pfmsm dpc o) := by
  refine (fpWord_and _ _ _ _ _ _ _ _ false false (7#3 ++ 0#4)).trans ?_
  rw [BitVec.and_append, BitVec.and_zero, Bool.and_false, Bool.and_false]; rfl
theorem pfam (dpc : BitVec 4) (o : Fp3) : Statement (.pfam dpc o) := by
  refine (fpWord_and _ _ _ _ _ _ _ _ false false (7#3 ++ 0#4)).trans ?_
  rw [BitVec.and_append, BitVec.and_zero, Bool.and_false, Bool.and_false]; rfl
theorem pfsm (dpc : BitVec 4) (o : Fp3) : Statement (.pfsm dpc o) := by
  refine (fpWord_and _ _ _ _ _ _ _ _ false false (7#3 ++ 0#4)).trans ?_
  rw [BitVec.and_append, BitVec.and_zero, Bool.and_false, Bool.and_false]; rfl
theorem fmul (o : Fp3) : Statement (.fmul o) := by
  refine (fpWord_and _ _ _ _ _ _ _ _ false false 0x7F#7).trans ?_
  rw [Bool.and_false, Bool.and_false]; rfl
theorem pfmul (o : Fp3) : Statement (.pfmul o) := by
  refine (fpWord_and _ _ _ _ _ _ _ _ false false 0x7F#7).trans ?_
  rw [Bool.and_false, Bool.and_false]; rfl
theorem fmlow (o : FpDd) : Statement (.fmlow o) :=
  fpWord_and _ _ _ _ _ _ _ _ true true 0x7F#7
theorem frcp (o : Fp2) : Statement (.frcp o) := by
  refine (fpWord_and _ _ _ _ _ _ _ _ false false 0x7F#7).trans ?_
  rw [Bool.and_false, Bool.and_false]; rfl
theorem frsqr (o : Fp2) : Statement (.frsqr o) := by
  refine (fpWord_and _ _ _ _ _ _ _ _ false false 0x7F#7).trans ?_
  rw [Bool.and_false, Bool.and_false]; rfl
theorem pfmul3 (o : FpDd) : Statement (.pfmul3 o) :=
  fpWord_and _ _ _ _ _ _ _ _ true true 0x7F#7
theorem fadd (o : Fp3) : Statement (.fadd o) := by
  refine (fpWord_and _ _ _ _ _ _ _ _ false false 0x7F#7).trans ?_
  rw [Bool.and_false, Bool.and_false]; rfl
theorem pfadd (o : Fp3) : Statement (.pfadd o) := by
  refine (fpWord_and _ _ _ _ _ _ _ _ false false 0x7F#7).trans ?_
  rw [Bool.and_false, Bool.and_false]; rfl
theorem fsub (o : Fp3) : Statement (.fsub o) := by
  refine (fpWord_and _ _ _ _ _ _ _ _ false false 0x7F#7).trans ?_
  rw [Bool.and_false, Bool.and_false]; rfl
theorem pfsub (o : Fp3) : Statement (.pfsub o) := by
  refine (fpWord_and _ _ _ _ _ _ _ _ false false 0x7F#7).trans ?_
  rw [Bool.and_false, Bool.and_false]; rfl
theorem fix (o : Fp2) : Statement (.fix o) := by
  refine (fpWord_and _ _ _ _ _ _ _ _ false false 0x7F#7).trans ?_
  rw [Bool.and_false, Bool.and_false]; rfl
theorem pfix (o : Fp2) : Statement (.pfix o) := by
  refine (fpWord_and _ _ _ _ _ _ _ _ false false 0x7F#7).trans ?_
  rw [Bool.and_false, Bool.and_false]; rfl
theorem famov (o : Fp2) : Statement (.famov o) := by
  refine (fpWord_and _ _ _ _ _ _ _ _ false false 0x7F#7).trans ?_
  rw [Bool.and_false, Bool.and_false]; rfl
theorem pfamov (o : Fp2) : Statement (.pfamov o) := by
  refine (fpWord_and _ _ _ _ _ _ _ _ false false 0x7F#7).trans ?_
  rw [Bool.and_false, Bool.and_false]; rfl
theorem ftrunc (o : Fp2) : Statement (.ftrunc o) := by
  refine (fpWord_and _ _ _ _ _ _ _ _ false false 0x7F#7).trans ?_
  rw [Bool.and_false, Bool.and_false]; rfl
theorem pftrunc (o : Fp2) : Statement (.pftrunc o) := by
  refine (fpWord_and _ _ _ _ _ _ _ _ false false 0x7F#7).trans ?_
  rw [Bool.and_false, Bool.and_false]; rfl
theorem pfgt (o : FpCmp) : Statement (.pfgt o) := by
  refine (fpWord_and _ _ _ _ _ _ _ _ false true 0x7F#7).trans ?_
  rw [Bool.and_false]; rfl
theorem pfle (o : FpCmp) : Statement (.pfle o) := by
  refine (fpWord_and _ _ _ _ _ _ _ _ false true 0x7F#7).trans ?_
  rw [Bool.and_false]; rfl
theorem pfeq (o : Fp3) : Statement (.pfeq o) := by
  refine (fpWord_and _ _ _ _ _ _ _ _ false false 0x7F#7).trans ?_
  rw [Bool.and_false, Bool.and_false]; rfl
theorem fxfr (o : FpXfr) : Statement (.fxfr o) :=
  fpWord_and _ _ _ _ _ _ _ _ false false 0x7F#7
theorem fiadd (o : Fp3) : Statement (.fiadd o) := by
  refine (fpWord_and _ _ _ _ _ _ _ _ false false 0x7F#7).trans ?_
  rw [Bool.and_false, Bool.and_false]; rfl
theorem pfiadd (o : Fp3) : Statement (.pfiadd o) := by
  refine (fpWord_and _ _ _ _ _ _ _ _ false false 0x7F#7).trans ?_
  rw [Bool.and_false, Bool.and_false]; rfl
theorem fisub (o : Fp3) : Statement (.fisub o) := by
  refine (fpWord_and _ _ _ _ _ _ _ _ false false 0x7F#7).trans ?_
  rw [Bool.and_false, Bool.and_false]; rfl
theorem pfisub (o : Fp3) : Statement (.pfisub o) := by
  refine (fpWord_and _ _ _ _ _ _ _ _ false false 0x7F#7).trans ?_
  rw [Bool.and_false, Bool.and_false]; rfl
theorem faddp (o : Fp3) : Statement (.faddp o) := by
  refine (fpWord_and _ _ _ _ _ _ _ _ false false 0x7F#7).trans ?_
  rw [Bool.and_false, Bool.and_false]; rfl
theorem pfaddp (o : Fp3) : Statement (.pfaddp o) := by
  refine (fpWord_and _ _ _ _ _ _ _ _ false false 0x7F#7).trans ?_
  rw [Bool.and_false, Bool.and_false]; rfl
theorem faddz (o : Fp3) : Statement (.faddz o) := by
  refine (fpWord_and _ _ _ _ _ _ _ _ false false 0x7F#7).trans ?_
  rw [Bool.and_false, Bool.and_false]; rfl
theorem pfaddz (o : Fp3) : Statement (.pfaddz o) := by
  refine (fpWord_and _ _ _ _ _ _ _ _ false false 0x7F#7).trans ?_
  rw [Bool.and_false, Bool.and_false]; rfl
theorem fzchkl (o : Fp3) : Statement (.fzchkl o) := by
  refine (fpWord_and _ _ _ _ _ _ _ _ false false 0x7F#7).trans ?_
  rw [Bool.and_false, Bool.and_false]; rfl
theorem pfzchkl (o : Fp3) : Statement (.pfzchkl o) := by
  refine (fpWord_and _ _ _ _ _ _ _ _ false false 0x7F#7).trans ?_
  rw [Bool.and_false, Bool.and_false]; rfl
theorem form (o : Fp2) : Statement (.form o) := by
  refine (fpWord_and _ _ _ _ _ _ _ _ false false 0x7F#7).trans ?_
  rw [Bool.and_false, Bool.and_false]; rfl
theorem pform (o : Fp2) : Statement (.pform o) := by
  refine (fpWord_and _ _ _ _ _ _ _ _ false false 0x7F#7).trans ?_
  rw [Bool.and_false, Bool.and_false]; rfl
theorem fzchks (o : Fp3) : Statement (.fzchks o) := by
  refine (fpWord_and _ _ _ _ _ _ _ _ false false 0x7F#7).trans ?_
  rw [Bool.and_false, Bool.and_false]; rfl
theorem pfzchks (o : Fp3) : Statement (.pfzchks o) := by
  refine (fpWord_and _ _ _ _ _ _ _ _ false false 0x7F#7).trans ?_
  rw [Bool.and_false, Bool.and_false]; rfl

end Sys2Proof.Laws.TableRow
end

