-- ==== Sys2Proof/Laws/Refusals.lean ====
section
/-! SUPPORT. When a form is refused: an outcome that is a refusal, or a refusal unless a floating-point trap comes first, followed through
the checks of a form, FPCheck, a unit of a dual operation, and the retirement of a pipeline entry. -/

namespace Sys2Proof.Machine

/-- The outcome is a refusal. -/
def IsRefused (x : Exec Unit) : Prop := ∃ q, x = .refused q

/-- The outcome is a refusal, or, with FTE set, a floating-point trap that leaves the floating-point registers of `s` (R341). -/
def RefusedOrTraps (s : State) (x : Exec Unit) : Prop :=
  IsRefused x ∨ s.fte = true ∧ ∃ u, x = .trapped u ∧ u.psr.getLsbD 12 = true ∧ u.fpr = s.fpr ∧ u.pendSync = true

/-- The floating-point registers, the pipelines and FTE are those of `s`. -/
def PipesKept (s u : State) : Prop :=
  u.fpr = s.fpr ∧ u.adder = s.adder ∧ u.multiplier = s.multiplier ∧ u.graphics = s.graphics ∧ u.fte = s.fte

theorem PipesKept.refl (s : State) : PipesKept s s := ⟨rfl, rfl, rfl, rfl, rfl⟩

/-! ### The end of the step -/

theorem IsRefused.finish {pc : Word} {x : Exec Unit} (h : IsRefused x) : ∃ q, Machine.finish pc x = .refused q := by
  obtain ⟨q, rfl⟩ := h; exact ⟨q, rfl⟩

/-- A step whose rule is refused or traps is refused, or ends by the trap's entry. -/
theorem RefusedOrTraps.finish {s : State} {x : Exec Unit} (h : RefusedOrTraps s x) :
    (∃ q, Machine.finish s.pc x = .refused q) ∨
      s.fte = true ∧ ∃ t, Machine.finish s.pc x = .next t ∧ t.psr.getLsbD 12 = true ∧ t.fpr = s.fpr := by
  rcases h with h | ⟨hf, u, rfl, h1, h2, h3⟩
  · exact .inl h.finish
  · refine .inr ⟨hf, _, rfl, ?_, ?_⟩
    · rw [endStep_of_pendSync _ _ h3]
      show (psrAtTrapEntry u.sampleInterrupt.psr).getLsbD 12 = true
      rw [getLsbD_psrAtTrapEntry, getLsbD_sampleInterrupt u 12, h1]; rfl
    · rw [endStep_of_pendSync _ _ h3]
      show u.sampleInterrupt.fpr = s.fpr
      rcases sampleInterrupt_cases u with h | h <;> rw [h] <;> exact h2

/-! ### The checks of a form -/

theorem isRefused_fpEscape {d : Bool} {body : State → Exec Unit} {s : State} (hk : s.knf = false) (h : IsRefused (body s)) :
    IsRefused (fpEscape d body s) := by
  cases ha : s.admits d
  · rw [fpEscape_of_not_admits hk ha]; exact ⟨_, rfl⟩
  · rw [fpEscape_of_executes ⟨hk, ha⟩]; exact h

theorem isRefused_requirePair {ok : Bool} {k : State → Exec Unit} {s : State} (h : IsRefused (k s)) :
    IsRefused (requirePair ok k s) := by
  unfold requirePair; split
  · exact h
  · exact ⟨_, rfl⟩

theorem isRefused_requireAligned {ok : Bool} {k : State → Exec Unit} {s : State} (h : IsRefused (k s)) :
    IsRefused (requireAligned ok k s) := by
  unfold requireAligned; split
  · exact h
  · exact ⟨_, rfl⟩

theorem refusedOrTraps_fpEscape {d : Bool} {body : State → Exec Unit} {s : State} (hk : s.knf = false)
    (h : RefusedOrTraps s (body s)) : RefusedOrTraps s (fpEscape d body s) := by
  cases ha : s.admits d
  · rw [fpEscape_of_not_admits hk ha]; exact .inl ⟨_, rfl⟩
  · rw [fpEscape_of_executes ⟨hk, ha⟩]; exact h

theorem refusedOrTraps_requirePair {ok : Bool} {k : State → Exec Unit} {s : State} (h : RefusedOrTraps s (k s)) :
    RefusedOrTraps s (requirePair ok k s) := by
  unfold requirePair; split
  · exact h
  · exact .inl ⟨_, rfl⟩

theorem refusedOrTraps_requireAligned {ok : Bool} {k : State → Exec Unit} {s : State} (h : RefusedOrTraps s (k s)) :
    RefusedOrTraps s (requireAligned ok k s) := by
  unfold requireAligned; split
  · exact h
  · exact .inl ⟨_, rfl⟩

/-! ### Retirement, floating-point traps, FPCheck and the units -/

/-- A double entry does not fit an odd destination (R27, R312). -/
theorem retireFits_of_odd {v : Dword} {dest : Reg} (h : dest.getLsbD 0 = true) :
    retireFits (some { value := v, prec := .double }) dest = false := by
  show alignedFor .double dest = false
  revert dest; decide

theorem isRefused_retire {e : Option Entry} {r : Prec} {dest : Reg} {s : State} (h : retireFits e dest = false) :
    IsRefused (retire e r dest s) := ⟨_, retire_of_misfit h⟩

/-- A floating-point trap, at a state with the floating-point registers as they were. -/
theorem refusedOrTraps_raise {s u : State} {reason : TrapReason} (hf : s.fte = true) (h : u.fpr = s.fpr) :
    RefusedOrTraps s (raise .ft reason .nothing u) :=
  .inr ⟨hf, _, rfl, getLsbD_setBit_self u.psr 12 true (by decide), h, rfl⟩

/-- FPCheck traps, or goes on with the pipelines and the floating-point registers as they were. -/
theorem refusedOrTraps_fpCheck {unit : FpUnit} {x : FVal} {p : Prec} {se : Bool} {s u : State} {k : Dword → State → Exec Unit}
    (h : PipesKept s u) (hk : ∀ v t, PipesKept s t → RefusedOrTraps s (k v t)) :
    RefusedOrTraps s ((fpCheck unit x p se u).bind k) := by
  have hse : ∀ b, (u.setSE b).fte = u.fte := fun b => by
    show (setBit u.fsr 8 b).getLsbD 5 = _; rw [getLsbD_setBit_ne _ _ _ _ (by decide) (by decide)]; rfl
  have hunit : ∀ (w : Word) o t i, (setUnitBits unit o t i w).getLsbD 5 = w.getLsbD 5 := fun w o t i => by
    unfold setUnitBits
    cases unit <;> simp only [FpUnit.oBit, FpUnit.uBit, FpUnit.iBit] <;>
      rw [getLsbD_setBit_ne _ _ _ _ (by decide) (by decide), getLsbD_setBit_ne _ _ _ _ (by decide) (by decide),
        getLsbD_setBit_ne _ _ _ _ (by decide) (by decide)]
  have hstick : ∀ (i : Bool) (w : Word), (stickInexact i w).getLsbD 5 = w.getLsbD 5 := fun i w => by
    unfold stickInexact; split
    · rw [getLsbD_setBit_ne _ _ _ _ (by decide) (by decide)]
    · rfl
  obtain ⟨h1, h2, h3, h4, h5⟩ := h
  unfold fpCheck
  split
  · split
    · rename_i hf
      rw [hse true, h5] at hf
      exact refusedOrTraps_raise (reason := .fpSource) hf h1
    · refine hk _ _ ?_
      unfold State.afterNan
      split <;> exact ⟨h1, h2, h3, h4, (hunit ..).trans ((hse true).trans h5)⟩
  · dsimp only
    split
    · rename_i hf
      rw [h5, Bool.and_eq_true] at hf
      exact refusedOrTraps_raise (reason := .fpResult) hf.1 h1
    · exact hk _ _ ⟨h1, h2, h3, h4, (hstick ..).trans ((hunit ..).trans ((hse false).trans h5))⟩

/-- The same of one unit of a dual operation. -/
theorem refusedOrTraps_unitResult {unit : FpUnit} {op : ExactOp} {sp rp : Prec} {a b : UnitOperand} {s u : State}
    {k : Dword → State → Exec Unit} (h : PipesKept s u) (hk : ∀ v t, PipesKept s t → RefusedOrTraps s (k v t)) :
    RefusedOrTraps s ((unitResult unit op sp rp a b u).bind k) := by
  cases a <;> cases b
  · exact hk _ _ h
  · exact hk _ _ h
  · exact hk _ _ h
  · exact refusedOrTraps_fpCheck h hk

/-- The loader is as before an access that goes through. -/
theorem loader_of_accessible {k : Nat} {kind : AccessKind} {va pa : Word} {s t : State} (h : Accessible k kind va s pa t) :
    t.loader = s.loader := by
  rcases translate_eq_done h.2.2 with ⟨_, _, rfl⟩ | ⟨_, _, rfl⟩ <;> rfl

end Sys2Proof.Machine
end

