-- ==== Sys2Proof/Laws/Sound.lean ====
section
/-! SUPPORT. The invariant's lasting part (`State.sound`) under every update and every shared operation. -/

namespace Sys2Proof.Machine

/-- What `sound` says, field by field. -/
theorem State.sound_iff (s : State) : s.sound = true ↔
    s.mem.wf = true ∧ (s.psr &&& ~~~psrDefined = 0#32 ∧ s.dirbase &&& ~~~dirbaseMask = 0#32 ∧ s.fsr &&& ~~~fsrMask = 0#32 ∧
      s.epsr &&& ~~~epsrMask = 0#32) ∧ s.adder.fits = true ∧ s.multiplier.fits = true ∧ s.loader.fits = true ∧
      stageFits s.graphics = true := by
  simp only [State.sound, State.reservedZero, Bool.and_eq_true, beq_iff_eq]
  tauto

/-! ### Updates of fields `sound` does not speak of -/

@[simp] theorem State.sound_setX (s : State) (i : Reg) (v : Word) : (s.setX i v).sound = s.sound := rfl
@[simp] theorem State.sound_setF (s : State) (i : Reg) (v : Word) : (s.setF i v).sound = s.sound := rfl
@[simp] theorem State.sound_setPair (s : State) (i : Reg) (v w : Word) : (s.setPair i v w).sound = s.sound := rfl
@[simp] theorem State.sound_setFd (s : State) (i : Reg) (v : Dword) : (s.setFd i v).sound = s.sound := rfl
@[simp] theorem State.sound_fw (s : State) (p : Prec) (i : Reg) (v : Dword) : (s.fw p i v).sound = s.sound := by
  cases p <;> rfl
@[simp] theorem State.sound_nextFree (s : State) : s.nextFree.sound = s.sound := rfl
@[simp] theorem State.sound_record (s : State) (a : BusAccess) : (s.record a).sound = s.sound := rfl
@[simp] theorem State.sound_setMerge (s : State) (v : Dword) : (s.setMerge v).sound = s.sound := rfl
@[simp] theorem State.sound_afterReadFir (s : State) : s.afterReadFir.sound = s.sound := rfl
@[simp] theorem State.sound_autoInc (s : State) (inc : Bool) (i : Reg) (v : Word) : (s.autoInc inc i v).sound = s.sound := by
  cases inc <;> rfl
@[simp] theorem State.sound_loadK (s : State) (m : M1Route) (k : Tagged) : (s.loadK m k).sound = s.sound := by
  cases m <;> rfl
@[simp] theorem State.sound_loadT (s : State) (e : Option Entry) : (s.loadT e).sound = s.sound := by cases e <;> rfl

@[simp] theorem State.quiet_setX (s : State) (i : Reg) (v : Word) : (s.setX i v).quiet = s.quiet := rfl
@[simp] theorem State.quiet_setF (s : State) (i : Reg) (v : Word) : (s.setF i v).quiet = s.quiet := rfl
@[simp] theorem State.quiet_setPair (s : State) (i : Reg) (v w : Word) : (s.setPair i v w).quiet = s.quiet := rfl
@[simp] theorem State.quiet_setFd (s : State) (i : Reg) (v : Dword) : (s.setFd i v).quiet = s.quiet := rfl
@[simp] theorem State.quiet_fw (s : State) (p : Prec) (i : Reg) (v : Dword) : (s.fw p i v).quiet = s.quiet := by
  cases p <;> rfl
@[simp] theorem State.quiet_nextFree (s : State) : s.nextFree.quiet = s.quiet := rfl
@[simp] theorem State.quiet_record (s : State) (a : BusAccess) : (s.record a).quiet = s.quiet := rfl
@[simp] theorem State.quiet_setMerge (s : State) (v : Dword) : (s.setMerge v).quiet = s.quiet := rfl
@[simp] theorem State.quiet_afterReadFir (s : State) : s.afterReadFir.quiet = s.quiet := rfl
@[simp] theorem State.quiet_autoInc (s : State) (inc : Bool) (i : Reg) (v : Word) : (s.autoInc inc i v).quiet = s.quiet := by
  cases inc <;> rfl
@[simp] theorem State.quiet_loadK (s : State) (m : M1Route) (k : Tagged) : (s.loadK m k).quiet = s.quiet := by
  cases m <;> rfl
@[simp] theorem State.quiet_loadT (s : State) (e : Option Entry) : (s.loadT e).quiet = s.quiet := by cases e <;> rfl
@[simp] theorem State.quiet_setCC (s : State) (b : Bool) : (s.setCC b).quiet = s.quiet := rfl
@[simp] theorem State.quiet_setLCC (s : State) (b : Bool) : (s.setLCC b).quiet = s.quiet := rfl
@[simp] theorem State.quiet_clearKNF (s : State) : s.clearKNF.quiet = s.quiet := rfl
@[simp] theorem State.quiet_setSC (s : State) (v : BitVec 5) : (s.setSC v).quiet = s.quiet := rfl
@[simp] theorem State.quiet_setPM (s : State) (v : BitVec 8) : (s.setPM v).quiet = s.quiet := rfl
@[simp] theorem State.quiet_setBL (s : State) (b : Bool) : (s.setBL b).quiet = s.quiet := rfl
@[simp] theorem State.quiet_setSE (s : State) (b : Bool) : (s.setSE b).quiet = s.quiet := rfl
@[simp] theorem State.quiet_setOF (s : State) (b : Bool) : (s.setOF b).quiet = s.quiet := rfl
@[simp] theorem State.quiet_recordResult (s : State) (u : FpUnit) (r : Rounded) : (s.recordResult u r).quiet = s.quiet := rfl
@[simp] theorem State.quiet_afterNan (s : State) (x : FVal) : (s.afterNan x).quiet = s.quiet := by
  unfold State.afterNan; split <;> rfl
@[simp] theorem State.sound_retireEmpty (s : State) (r : Prec) (i : Reg) : (s.retireEmpty r i).sound = s.sound := by
  unfold State.retireEmpty; split
  · rfl
  · cases r <;> rfl
@[simp] theorem State.quiet_retireEmpty (s : State) (r : Prec) (i : Reg) : (s.retireEmpty r i).quiet = s.quiet := by
  unfold State.retireEmpty; split
  · rfl
  · cases r <;> rfl
@[simp] theorem busWrite_quiet (n : BusSize) (b : Bool) (pa v : Word) (s : State) : (busWrite n b pa v s).quiet = s.quiet := rfl

/-! ### Updates of the control registers -/

/-- A psr whose reserved field is as before keeps `sound`. -/
theorem State.sound_with_psr {s : State} (w : Word) (h : w &&& ~~~psrDefined = s.psr &&& ~~~psrDefined) :
    ({ s with psr := w } : State).sound = s.sound := by
  unfold State.sound State.reservedZero; simp only [h]

theorem State.sound_with_fsr {s : State} (w : Word) (h : w &&& ~~~fsrMask = s.fsr &&& ~~~fsrMask) :
    ({ s with fsr := w } : State).sound = s.sound := by
  unfold State.sound State.reservedZero; simp only [h]

theorem State.sound_with_epsr {s : State} (w : Word) (h : w &&& ~~~epsrMask = s.epsr &&& ~~~epsrMask) :
    ({ s with epsr := w } : State).sound = s.sound := by
  unfold State.sound State.reservedZero; simp only [h]

theorem State.sound_with_dirbase {s : State} (w : Word) (h : w &&& ~~~dirbaseMask = s.dirbase &&& ~~~dirbaseMask) :
    ({ s with dirbase := w } : State).sound = s.sound := by
  unfold State.sound State.reservedZero; simp only [h]

@[simp] theorem State.sound_setCC (s : State) (b : Bool) : (s.setCC b).sound = s.sound :=
  sound_with_psr _ (setBit_and _ _ 2 b (by decide) (by decide))
@[simp] theorem State.sound_setLCC (s : State) (b : Bool) : (s.setLCC b).sound = s.sound :=
  sound_with_psr _ (setBit_and _ _ 3 b (by decide) (by decide))
@[simp] theorem State.sound_clearKNF (s : State) : s.clearKNF.sound = s.sound :=
  sound_with_psr _ (setBit_and _ _ 15 false (by decide) (by decide))
@[simp] theorem State.sound_setSC (s : State) (v : BitVec 5) : (s.setSC v).sound = s.sound :=
  sound_with_psr _ (setField_and _ _ 17 v (by decide) (fun j h1 h2 => by interval_cases j <;> decide))
@[simp] theorem State.sound_setPM (s : State) (v : BitVec 8) : (s.setPM v).sound = s.sound :=
  sound_with_psr _ (setField_and _ _ 24 v (by decide) (fun j h1 h2 => by interval_cases j <;> decide))
@[simp] theorem State.sound_setBL (s : State) (b : Bool) : (s.setBL b).sound = s.sound :=
  sound_with_dirbase _ (setBit_and _ _ 4 b (by decide) (by decide))
@[simp] theorem State.sound_setSE (s : State) (b : Bool) : (s.setSE b).sound = s.sound :=
  sound_with_fsr _ (setBit_and _ _ 8 b (by decide) (by decide))
@[simp] theorem State.sound_setOF (s : State) (b : Bool) : (s.setOF b).sound = s.sound :=
  sound_with_epsr _ (setBit_and _ _ 24 b (by decide) (by decide))

/-- The status bits of a unit are not reserved. -/
theorem setUnitBits_and (u : FpUnit) (o t i : Bool) (w : Word) : setUnitBits u o t i w &&& ~~~fsrMask = w &&& ~~~fsrMask := by
  unfold setUnitBits
  cases u <;>
    rw [setBit_and _ _ _ _ (by decide) (by decide), setBit_and _ _ _ _ (by decide) (by decide),
      setBit_and _ _ _ _ (by decide) (by decide)]

theorem stickInexact_and (i : Bool) (w : Word) : stickInexact i w &&& ~~~fsrMask = w &&& ~~~fsrMask := by
  unfold stickInexact
  cases i
  · rfl
  · exact setBit_and _ _ 7 true (by decide) (by decide)

@[simp] theorem State.sound_recordResult (s : State) (u : FpUnit) (r : Rounded) : (s.recordResult u r).sound = s.sound :=
  sound_with_fsr _ (by rw [stickInexact_and, setUnitBits_and])

@[simp] theorem State.sound_afterNan (s : State) (x : FVal) : (s.afterNan x).sound = s.sound := by
  unfold State.afterNan; split <;> rfl

/-- A trap recorded keeps `sound`: the trap bits are not reserved. -/
@[simp] theorem State.sound_recordTrap (s : State) (c : TrapClass) (r : TrapReason) (d : TrapDetail) :
    (s.recordTrap c r d).sound = s.sound := by
  have : ({ s with psr := setBit s.psr c.bit true } : State).sound = s.sound :=
    sound_with_psr _ (setBit_and _ _ _ _ (by cases c <;> decide) (by cases c <;> decide))
  exact this

@[simp] theorem State.pendSync_recordTrap (s : State) (c : TrapClass) (r : TrapReason) (d : TrapDetail) :
    (s.recordTrap c r d).pendSync = true := rfl

/-- A bus write keeps `sound`. -/
theorem busWrite_sound {s : State} (h : s.sound = true) (n : BusSize) (b : Bool) (pa v : Word) :
    (busWrite n b pa v s).sound = true := by
  rw [State.sound_iff] at h ⊢
  exact ⟨Memory.wf_busStore h.1 n b pa v, h.2⟩

/-! ### Pipelines -/

theorem entryOf_fits (p : Prec) (v : Dword) : (entryOf p v).fits = true := by
  cases p
  · unfold entryOf Entry.fits
    have : ((v.extractLsb' 0 32).setWidth 64).extractLsb' 32 32 = 0#32 := by
      apply BitVec.eq_of_getLsbD_eq
      intro j hj
      simp
    simp [this]
  · rfl

theorem Pipe.fits_push3 {p : Pipe} (h : p.fits = true) {e : Option Entry} (he : stageFits e = true) :
    (p.push3 e).fits = true := by
  unfold Pipe.fits at h ⊢
  simp only [Bool.and_eq_true] at h
  simp [Pipe.push3, he, h.1.1, h.1.2]

theorem Pipe.fits_push {p : Pipe} (h : p.fits = true) (d : Depth) {e : Option Entry} (he : stageFits e = true) :
    (p.push d e).fits = true := by
  cases d
  · unfold Pipe.fits at h
    simp only [Bool.and_eq_true] at h
    show (stageFits e && stageFits p.s1 && true) = true
    rw [he, h.1.1]; rfl
  · exact fits_push3 h he

/-! ### The shared operations keep the invariant -/

/-- Completed parts keep the whole invariant. -/
abbrev KeepsD {α : Type} : α → State → Prop := fun _ s => s.sound = true ∧ s.quiet = true

/-- Trapped parts keep its lasting part, and their trap is pending. -/
abbrev KeepsT : State → Prop := fun s => s.sound = true ∧ s.pendSync = true

/-- A completed part keeps the invariant if its state has it. -/
theorem done_keeps {α : Type} {a : α} {s : State} (h : s.sound = true) (hq : s.quiet = true) :
    (Exec.done a s).Sat KeepsD KeepsT := And.intro h hq

theorem raise_keeps {α : Type} (c : TrapClass) (r : TrapReason) (d : TrapDetail) {s : State} (h : s.sound = true) :
    (raise c r d s : Exec α).Sat KeepsD KeepsT := by
  exact ⟨by rw [State.sound_recordTrap]; exact h, rfl⟩

theorem busRead_keeps (n : BusSize) (b : Bool) (pa : Word) {s : State} (h : KeepsD () s) :
    (busRead n b pa s).Sat KeepsD KeepsT := h

theorem raiseTranslation_keeps {α : Type} (va : Word) (kind : AccessKind) {s : State} (h : s.sound = true) :
    (raiseTranslation va kind s : Exec α).Sat KeepsD KeepsT := by
  cases kind <;> exact raise_keeps _ _ _ h

theorem walk_keeps (va : Word) (kind : AccessKind) {s : State} (h : KeepsD () s) : (walk va kind s).Sat KeepsD KeepsT := by
  unfold walk
  refine Exec.Sat.bind (busRead_keeps _ _ _ h) fun pde s1 h1 => ?_
  split
  · exact raiseTranslation_keeps _ _ h1.1
  · refine Exec.Sat.bind (busRead_keeps _ _ _ h1) fun pte s2 h2 => ?_
    split
    · exact raiseTranslation_keeps _ _ h2.1
    · have h3 := busWrite_sound h2.1 .word s.params.fetchBigEndian (s.pdeAddr va) (pde ||| 0x20#32)
      have h4 := busWrite_sound h3 .word s.params.fetchBigEndian (pteAddr pde va) (pte ||| 0x20#32)
      dsimp only
      split
      · exact raiseTranslation_keeps _ _ h4
      · exact ⟨h4, h2.2⟩

theorem translate_keeps (va : Word) (kind : AccessKind) {s : State} (h : KeepsD () s) :
    (translate va kind s).Sat KeepsD KeepsT := by
  unfold translate; split
  · exact walk_keeps _ _ h
  · exact h

theorem dataAddress_keeps (k : Nat) (kind : AccessKind) (va : Word) {s : State} (h : KeepsD () s) :
    (dataAddress k kind va s).Sat KeepsD KeepsT := by
  unfold dataAddress
  split
  · exact raise_keeps _ _ _ h.1
  · split
    · exact raise_keeps _ _ _ h.1
    · exact translate_keeps _ _ h

theorem dataRead_keeps (n : BusSize) (va : Word) {s : State} (h : KeepsD () s) : (dataRead n va s).Sat KeepsD KeepsT :=
  Exec.Sat.bind (dataAddress_keeps _ _ _ h) fun _ _ h1 => busRead_keeps _ _ _ h1

theorem busRead64_keeps (pa : Word) {s : State} (h : KeepsD () s) : (busRead64 pa s).Sat KeepsD KeepsT :=
  Exec.Sat.bind (busRead_keeps _ _ _ h) fun _ _ h1 => Exec.Sat.bind (busRead_keeps _ _ _ h1) fun _ _ h2 => h2

theorem busWrite64_sound {s : State} (h : s.sound = true) (pa : Word) (v : Dword) : (busWrite64 pa v s).sound = true :=
  busWrite_sound (busWrite_sound h _ _ _ _) _ _ _ _

@[simp] theorem busWrite64_quiet (pa : Word) (v : Dword) (s : State) : (busWrite64 pa v s).quiet = s.quiet := rfl

theorem dataRead64_keeps (va : Word) {s : State} (h : KeepsD () s) : (dataRead64 va s).Sat KeepsD KeepsT :=
  Exec.Sat.bind (dataAddress_keeps _ _ _ h) fun _ _ h1 => busRead64_keeps _ h1

theorem dataRead128_keeps (va : Word) {s : State} (h : KeepsD () s) : (dataRead128 va s).Sat KeepsD KeepsT :=
  Exec.Sat.bind (dataAddress_keeps _ _ _ h) fun _ _ h1 =>
    Exec.Sat.bind (busRead64_keeps _ h1) fun _ _ h2 => Exec.Sat.bind (busRead64_keeps _ h2) fun _ _ h3 => h3

theorem dataWrite_keeps (n : BusSize) (va v : Word) {s : State} (h : KeepsD () s) :
    (dataWrite n va v s).Sat KeepsD KeepsT :=
  Exec.Sat.bind (dataAddress_keeps _ _ _ h) fun _ _ h1 =>
    done_keeps (busWrite_sound h1.1 _ _ _ _) (by rw [busWrite_quiet]; exact h1.2)

theorem dataWrite64_keeps (va : Word) (v : Dword) {s : State} (h : KeepsD () s) : (dataWrite64 va v s).Sat KeepsD KeepsT :=
  Exec.Sat.bind (dataAddress_keeps _ _ _ h) fun _ _ h1 =>
    done_keeps (busWrite64_sound h1.1 _ _) (by rw [busWrite64_quiet]; exact h1.2)

theorem dataWrite128_keeps (va : Word) (v w : Dword) {s : State} (h : KeepsD () s) :
    (dataWrite128 va v w s).Sat KeepsD KeepsT :=
  Exec.Sat.bind (dataAddress_keeps _ _ _ h) fun _ _ h1 =>
    done_keeps (busWrite64_sound (busWrite64_sound h1.1 _ _) _ _) (by rw [busWrite64_quiet, busWrite64_quiet]; exact h1.2)

/-- A fetch keeps the invariant. -/
theorem fetch_keeps (va : Word) {s : State} (h : KeepsD () s) : (fetch va s).Sat KeepsD KeepsT := by
  unfold fetch; split
  · trivial
  · exact Exec.Sat.bind (translate_keeps _ _ h) fun _ _ h1 => Exec.Sat.bind (busRead_keeps _ _ _ h1) fun _ _ h2 => h2

/-- FPCheck with a source exception (R341). -/
theorem fpCheck_source (unit : FpUnit) (x : FVal) (p : Prec) (s : State) :
    fpCheck unit x p true s =
      if s.fte then raise .ft .fpSource .nothing (s.setSE true)
      else .done (roundValue p s.rm s.free x).bits
        (State.afterNan { s.setSE true with fsr := setUnitBits unit false false false (s.setSE true).fsr } x) := by
  have h : (s.setSE true).fte = s.fte := getLsbD_setBit_ne _ _ _ _ (by decide) (by decide)
  unfold fpCheck
  rw [if_pos rfl, h]

/-- FPCheck with no source exception (R341). -/
theorem fpCheck_result (unit : FpUnit) (x : FVal) (p : Prec) (s : State) :
    fpCheck unit x p false s =
      if s.fte && resultTraps s.ti (flushed p s.fz (roundValue p s.rm s.free x)) then
        raise .ft .fpResult .nothing ((s.setSE false).recordResult unit (flushed p s.fz (roundValue p s.rm s.free x)))
      else .done (flushed p s.fz (roundValue p s.rm s.free x)).bits
        ((s.setSE false).recordResult unit (flushed p s.fz (roundValue p s.rm s.free x))) := by
  unfold fpCheck
  rw [if_neg Bool.false_ne_true]

theorem fpCheck_source_keeps (unit : FpUnit) (x : FVal) (p : Prec) {s : State} (h : KeepsD () s) :
    (fpCheck unit x p true s).Sat KeepsD KeepsT := by
  rw [fpCheck_source]
  have h1 : (State.afterNan { s.setSE true with fsr := setUnitBits unit false false false (s.setSE true).fsr } x).sound = true := by
    rw [State.sound_afterNan, State.sound_with_fsr _ (setUnitBits_and _ _ _ _ _), State.sound_setSE]
    exact h.1
  have h2 : (State.afterNan { s.setSE true with fsr := setUnitBits unit false false false (s.setSE true).fsr } x).quiet = true := by
    rw [State.quiet_afterNan]; exact h.2
  generalize State.afterNan { s.setSE true with fsr := setUnitBits unit false false false (s.setSE true).fsr } x = u at h1 h2
  generalize (roundValue p s.rm s.free x).bits = v
  split
  · exact raise_keeps _ _ _ (by rw [State.sound_setSE]; exact h.1)
  · exact ⟨h1, h2⟩

theorem fpCheck_result_keeps (unit : FpUnit) (x : FVal) (p : Prec) {s : State} (h : KeepsD () s) :
    (fpCheck unit x p false s).Sat KeepsD KeepsT := by
  rw [fpCheck_result]
  generalize flushed p s.fz (roundValue p s.rm s.free x) = r
  have h1 : ((s.setSE false).recordResult unit r).sound = true := by
    rw [State.sound_recordResult, State.sound_setSE]; exact h.1
  split
  · exact raise_keeps _ _ _ h1
  · exact ⟨h1, h.2⟩

/-- FPCheck keeps the invariant. -/
theorem fpCheck_keeps (unit : FpUnit) (x : FVal) (p : Prec) (se : Bool) {s : State} (h : KeepsD () s) :
    (fpCheck unit x p se s).Sat KeepsD KeepsT := by
  cases se with
  | true => exact fpCheck_source_keeps _ _ _ h
  | false => exact fpCheck_result_keeps _ _ _ h

/-- A retire write keeps the invariant. -/
theorem retire_keeps (e : Option Entry) (r : Prec) (dest : Reg) {s : State} (h : KeepsD () s) :
    (retire e r dest s).Sat KeepsD KeepsT := by
  unfold retire
  split
  · split
    · exact ⟨by simpa using h.1, by simpa using h.2⟩
    · trivial
  · exact ⟨by rw [State.sound_retireEmpty]; exact h.1, by rw [State.quiet_retireEmpty]; exact h.2⟩

theorem sound_with_adder {s : State} (h : s.sound = true) {p : Pipe} (hp : p.fits = true) :
    ({ s with adder := p } : State).sound = true := by
  rw [State.sound_iff] at h ⊢; exact ⟨h.1, h.2.1, hp, h.2.2.2⟩

theorem sound_with_multiplier {s : State} (h : s.sound = true) {p : Pipe} (hp : p.fits = true) :
    ({ s with multiplier := p } : State).sound = true := by
  rw [State.sound_iff] at h ⊢; exact ⟨h.1, h.2.1, h.2.2.1, hp, h.2.2.2.2⟩

theorem sound_with_loader {s : State} (h : s.sound = true) {p : Pipe} (hp : p.fits = true) :
    ({ s with loader := p } : State).sound = true := by
  rw [State.sound_iff] at h ⊢; exact ⟨h.1, h.2.1, h.2.2.1, h.2.2.2.1, hp, h.2.2.2.2.2⟩

theorem sound_with_graphics {s : State} (h : s.sound = true) {e : Option Entry} (he : stageFits e = true) :
    ({ s with graphics := e } : State).sound = true := by
  rw [State.sound_iff] at h ⊢; exact ⟨h.1, h.2.1, h.2.2.1, h.2.2.2.1, h.2.2.2.2.1, he⟩

theorem issueAdder_keeps (r : Prec) (dest : Reg) {e : Option Entry} (he : stageFits e = true) {s : State} (h : KeepsD () s) :
    (issueAdder r dest e s).Sat KeepsD KeepsT :=
  retire_keeps _ _ _ ⟨sound_with_adder h.1 (Pipe.fits_push3 ((State.sound_iff s).mp h.1).2.2.1 he), h.2⟩

theorem issueMultiplier_keeps (d : Depth) (r : Prec) (dest : Reg) {e : Option Entry} (he : stageFits e = true) {s : State}
    (h : KeepsD () s) : (issueMultiplier d r dest e s).Sat KeepsD KeepsT :=
  retire_keeps _ _ _ ⟨sound_with_multiplier h.1 (Pipe.fits_push ((State.sound_iff s).mp h.1).2.2.2.1 d he), h.2⟩

theorem issueLoader_keeps (r : Prec) (dest : Reg) {e : Option Entry} (he : stageFits e = true) {s : State} (h : KeepsD () s) :
    (issueLoader r dest e s).Sat KeepsD KeepsT :=
  retire_keeps _ _ _ ⟨sound_with_loader h.1 (Pipe.fits_push3 ((State.sound_iff s).mp h.1).2.2.2.2.1 he), h.2⟩

theorem issueGraphics_keeps (r : Prec) (dest : Reg) {e : Option Entry} (he : stageFits e = true) {s : State} (h : KeepsD () s) :
    (issueGraphics r dest e s).Sat KeepsD KeepsT :=
  retire_keeps _ _ _ ⟨sound_with_graphics h.1 he, h.2⟩

/-- psr after trap entry has the reserved bit it had. -/
theorem psrAtTrapEntry_and (w : Word) : psrAtTrapEntry w &&& ~~~psrDefined = w &&& ~~~psrDefined := by
  unfold psrAtTrapEntry
  iterate 6 rw [setBit_and _ _ _ _ (by decide) (by decide)]

theorem psrAtTrapReturn_and (w : Word) : psrAtTrapReturn w &&& ~~~psrDefined = w &&& ~~~psrDefined := by
  unfold psrAtTrapReturn
  rw [setField_and _ _ 8 0#5 (by decide) (fun j h1 h2 => by interval_cases j <;> decide),
    setBit_and _ _ _ _ (by decide) (by decide), setBit_and _ _ _ _ (by decide) (by decide)]

/-- Trap entry gives the whole invariant: nothing is pending after it. -/
theorem trapEntry_inv {s : State} (h : s.sound = true) (pc : Word) (target : Option Word) : (s.trapEntry pc target).Inv := by
  refine ⟨?_, rfl⟩
  have h1 : ({ s with psr := psrAtTrapEntry s.psr } : State).sound = true := by
    rw [State.sound_with_psr _ (psrAtTrapEntry_and _)]; exact h
  exact h1

/-- The end of a step gives the whole invariant, if the instruction completed or its trap is pending. -/
theorem endStep_inv {s : State} (h : s.sound = true) (hq : s.quiet = true ∨ s.pendSync = true) (pc : Word) (target : Option Word) :
    (s.endStep pc target).Inv := by
  have h9 : ({ s with psr := setBit s.psr 9 true, pendExt := true } : State).sound = true := by
    have : ({ s with psr := setBit s.psr 9 true } : State).sound = true := by
      rw [State.sound_with_psr _ (setBit_and _ _ 9 true (by decide) (by decide))]; exact h
    exact this
  rcases endStep_cases s pc target with ⟨e, h1, h2⟩ | e | e
  · rw [e]
    refine ⟨h, ?_⟩
    rcases hq with hq | hq
    · exact hq
    · rw [hq] at h1; cases h1
  · rw [e]; exact trapEntry_inv h _ _
  · rw [e]; exact trapEntry_inv h9 _ _

/-- A finished body gives the invariant, if the body keeps it. -/
theorem finish_inv {pc : Word} {r : Exec Unit} (h : r.Sat KeepsD KeepsT) {t : State} (ht : finish pc r = .next t) : t.Inv := by
  obtain ⟨u, hu, rfl⟩ := finish_eq_next ht
  rcases hu with rfl | rfl
  · exact endStep_inv h.1 (.inl h.2) _ _
  · exact endStep_inv h.1 (.inr h.2) _ _

theorem finishAt_inv {pc : Word} {r : Exec (Option Word)} (h : r.Sat KeepsD KeepsT) {t : State} (ht : finishAt pc r = .next t) :
    t.Inv := by
  obtain ⟨u, hu⟩ := finishAt_eq_next ht
  rcases hu with ⟨a, rfl, rfl⟩ | ⟨rfl, rfl⟩
  · exact endStep_inv h.1 (.inl h.2) _ _
  · exact endStep_inv h.1 (.inr h.2) _ _

end Sys2Proof.Machine
end

