-- ==== Sys2Proof/Tests/Slice0.lean ====
section
/-! SUPPORT. Tests: ill-formed terms each check refuses, words written from the spec's encodings, single steps with the results the
spec states, and for every statement with hypotheses a state and operands that meet them. -/

namespace Sys2Proof.Tests

open Sys2Proof.Machine

/-! ### WellFormed refuses: one ill-formed term for each check -/

/-- The operands of an instruction of two sources. -/
def fp3 (s r : Prec) (src1 src2 dest : Reg) : Fp3 := { src1 := src1, src2 := src2, dest := dest, s := s, r := r, d := false }

/-- The operands of an instruction of one source. -/
def fp2 (s r : Prec) (src dest : Reg) : Fp2 := { src := src, dest := dest, s := s, r := r, d := false }

theorem test_ill_formed_double_register :
    wellFormed (.flddR 0#5 0#5 1#5 false) = false ∧ wellFormed (.fstdI 0#13 0#5 3#5 true) = false ∧
    wellFormed (.pstd 5#5 0#13 0#5 false) = false := by decide

theorem test_ill_formed_quad_register : wellFormed (.fldqI 0#13 0#5 2#5 false) = false ∧
    wellFormed (.fstqR 0#5 0#5 6#5 false) = false := by decide

theorem test_ill_formed_pairs :
    wellFormed (.fadd (fp3 .double .single 2#5 4#5 6#5)) = false ∧ wellFormed (.pfmul (fp3 .double .single 2#5 4#5 6#5)) = false ∧
    wellFormed (.fix (fp2 .single .single 2#5 4#5)) = false ∧ wellFormed (.pftrunc (fp2 .double .single 2#5 4#5)) = false ∧
    wellFormed (.pfeq (fp3 .single .double 2#5 4#5 6#5)) = false ∧ wellFormed (.fiadd (fp3 .single .double 2#5 4#5 6#5)) = false ∧
    wellFormed (.faddz (fp3 .single .single 2#5 4#5 6#5)) = false ∧ wellFormed (.pform (fp2 .single .double 2#5 4#5)) = false ∧
    wellFormed (.pfam 0#4 (fp3 .double .single 2#5 4#5 6#5)) = false := by decide

theorem test_ill_formed_sources :
    wellFormed (.fsub (fp3 .double .double 3#5 4#5 6#5)) = false ∧ wellFormed (.pfadd (fp3 .double .double 2#5 5#5 7#5)) = false ∧
    wellFormed (.pfle { src1 := 1#5, src2 := 2#5, dest := 3#5, s := .double, d := false }) = false ∧
    wellFormed (.fmlow { src1 := 2#5, src2 := 3#5, dest := 4#5, d := false }) = false ∧
    wellFormed (.pfmul3 { src1 := 3#5, src2 := 2#5, dest := 5#5, d := false }) = false ∧
    wellFormed (.pfamov (fp2 .double .single 3#5 4#5)) = false ∧ wellFormed (.pfsm 9#4 (fp3 .single .double 3#5 4#5 6#5)) = false := by
  decide

theorem test_ill_formed_destination :
    wellFormed (.fmul (fp3 .single .double 3#5 5#5 7#5)) = false ∧ wellFormed (.frcp (fp2 .single .double 3#5 5#5)) = false ∧
    wellFormed (.famov (fp2 .single .double 3#5 5#5)) = false ∧ wellFormed (.pfmam 0#4 (fp3 .single .double 2#5 4#5 7#5)) = false ∧
    wellFormed (.form (fp2 .double .double 2#5 5#5)) = false := by decide

/-! ### Words written out from the encodings -/

/-- Words of 6 rows, written from the field positions of R112 to R126. -/
theorem test_decode_integer_loads :
    decodeTableWord 32 0x024C3800 = some (.ldbR 7#5 18#5 12#5) ∧
    decodeTableWord 32 0x064C89A7 = some (.ldbI 0x89a7#16 18#5 12#5) ∧
    decodeTableWord 32 0x124C3800 = some (.ldsR 7#5 18#5 12#5) ∧
    decodeTableWord 32 0x124C3801 = some (.ldlR 7#5 18#5 12#5) ∧
    decodeTableWord 32 0x164C89A6 = some (.ldsI 0x44d3#15 18#5 12#5) ∧
    decodeTableWord 32 0x164C89A7 = some (.ldlI 0x44d3#15 18#5 12#5) := by decide

/-- Words of 4 rows, written from the field positions of R112 to R126. -/
theorem test_decode_integer_stores :
    decodeTableWord 32 0x080C3800 = some (.ixfr 7#5 12#5) ∧
    decodeTableWord 32 0x0E5139A7 = some (.stb 7#5 0x89a7#16 18#5) ∧
    decodeTableWord 32 0x1E5139A6 = some (.sts 7#5 0x44d3#15 18#5) ∧
    decodeTableWord 32 0x1E5139A7 = some (.stl 7#5 0x44d3#15 18#5) := by decide

/-- Words of 6 rows, written from the field positions of R112 to R126. -/
theorem test_decode_fp_loads :
    decodeTableWord 32 0x224C3801 = some (.flddR 7#5 18#5 12#5 true) ∧
    decodeTableWord 32 0x224C3803 = some (.fldlR 7#5 18#5 12#5 true) ∧
    decodeTableWord 32 0x224C3805 = some (.fldqR 7#5 18#5 12#5 true) ∧
    decodeTableWord 32 0x264C89A1 = some (.flddI 0x1134#13 18#5 12#5 true) ∧
    decodeTableWord 32 0x264C89A7 = some (.fldlI 0x2269#14 18#5 12#5 true) ∧
    decodeTableWord 32 0x264C89A5 = some (.fldqI 0x1134#13 18#5 12#5 true) := by decide

/-- Words of 7 rows, written from the field positions of R112 to R126. -/
theorem test_decode_fp_stores :
    decodeTableWord 32 0x2A4C3801 = some (.fstdR 7#5 18#5 12#5 true) ∧
    decodeTableWord 32 0x2A4C3803 = some (.fstlR 7#5 18#5 12#5 true) ∧
    decodeTableWord 32 0x2A4C3805 = some (.fstqR 7#5 18#5 12#5 true) ∧
    decodeTableWord 32 0x2E4C89A1 = some (.fstdI 0x1134#13 18#5 12#5 true) ∧
    decodeTableWord 32 0x2E4C89A7 = some (.fstlI 0x2269#14 18#5 12#5 true) ∧
    decodeTableWord 32 0x2E4C89A5 = some (.fstqI 0x1134#13 18#5 12#5 true) ∧
    decodeTableWord 32 0x3E4C89A1 = some (.pstd 12#5 0x1134#13 18#5 true) := by decide

/-- Words of 7 rows, written from the field positions of R112 to R126. -/
theorem test_decode_system :
    decodeTableWord 32 0x324C0000 = some (.ldc 18#5 12#5) ∧
    decodeTableWord 32 0x3A403800 = some (.stc 7#5 18#5) ∧
    decodeTableWord 32 0x464C3800 = some (.trap 7#5 18#5 12#5) ∧
    decodeTableWord 32 0x4C000001 = some (.lock) ∧
    decodeTableWord 32 0x4C003802 = some (.calli 7#5) ∧
    decodeTableWord 32 0x4C000004 = some (.intovr) ∧
    decodeTableWord 32 0x4C000007 = some (.unlock) := by decide

/-- Words of 5 rows, written from the field positions of R112 to R126. -/
theorem test_decode_pipelined_loads :
    decodeTableWord 32 0x364C89A7 = some (.flush 0x44d3#15 18#5 12#5 true) ∧
    decodeTableWord 32 0x624C3801 = some (.pflddR 7#5 18#5 12#5 true) ∧
    decodeTableWord 32 0x624C3803 = some (.pfldlR 7#5 18#5 12#5 true) ∧
    decodeTableWord 32 0x664C89A1 = some (.pflddI 0x1134#13 18#5 12#5 true) ∧
    decodeTableWord 32 0x664C89A7 = some (.pfldlI 0x2269#14 18#5 12#5 true) := by decide

/-- Words of 12 rows, written from the field positions of R112 to R126. -/
theorem test_decode_branches :
    decodeTableWord 32 0x40003800 = some (.bri 7#5) ∧
    decodeTableWord 32 0x525139A7 = some (.btneR 7#5 18#5 0x89a7#16) ∧
    decodeTableWord 32 0x565139A7 = some (.btneI 7#5 18#5 0x89a7#16) ∧
    decodeTableWord 32 0x5A5139A7 = some (.bteR 7#5 18#5 0x89a7#16) ∧
    decodeTableWord 32 0x5E5139A7 = some (.bteI 7#5 18#5 0x89a7#16) ∧
    decodeTableWord 32 0x6AABCDEF = some (.br 0x2ABCDEF#26) ∧
    decodeTableWord 32 0x6EABCDEF = some (.call 0x2ABCDEF#26) ∧
    decodeTableWord 32 0x72ABCDEF = some (.bc 0x2ABCDEF#26) ∧
    decodeTableWord 32 0x76ABCDEF = some (.bct 0x2ABCDEF#26) ∧
    decodeTableWord 32 0x7AABCDEF = some (.bnc 0x2ABCDEF#26) ∧
    decodeTableWord 32 0x7EABCDEF = some (.bnct 0x2ABCDEF#26) ∧
    decodeTableWord 32 0xB65139A7 = some (.bla 7#5 18#5 0x89a7#16) := by decide

/-- Words of 8 rows, written from the field positions of R112 to R126. -/
theorem test_decode_add_subtract :
    decodeTableWord 32 0x824C3800 = some (.adduR 7#5 18#5 12#5) ∧
    decodeTableWord 32 0x864C89A7 = some (.adduI 0x89a7#16 18#5 12#5) ∧
    decodeTableWord 32 0x8A4C3800 = some (.subuR 7#5 18#5 12#5) ∧
    decodeTableWord 32 0x8E4C89A7 = some (.subuI 0x89a7#16 18#5 12#5) ∧
    decodeTableWord 32 0x924C3800 = some (.addsR 7#5 18#5 12#5) ∧
    decodeTableWord 32 0x964C89A7 = some (.addsI 0x89a7#16 18#5 12#5) ∧
    decodeTableWord 32 0x9A4C3800 = some (.subsR 7#5 18#5 12#5) ∧
    decodeTableWord 32 0x9E4C89A7 = some (.subsI 0x89a7#16 18#5 12#5) := by decide

/-- Words of 7 rows, written from the field positions of R112 to R126. -/
theorem test_decode_shifts :
    decodeTableWord 32 0xA24C3800 = some (.shlR 7#5 18#5 12#5) ∧
    decodeTableWord 32 0xA64C89A7 = some (.shlI 0x89a7#16 18#5 12#5) ∧
    decodeTableWord 32 0xAA4C3800 = some (.shrR 7#5 18#5 12#5) ∧
    decodeTableWord 32 0xAE4C89A7 = some (.shrI 0x89a7#16 18#5 12#5) ∧
    decodeTableWord 32 0xBA4C3800 = some (.shraR 7#5 18#5 12#5) ∧
    decodeTableWord 32 0xBE4C89A7 = some (.shraI 0x89a7#16 18#5 12#5) ∧
    decodeTableWord 32 0xB24C3800 = some (.shrd 7#5 18#5 12#5) := by decide

/-- Words of 12 rows, written from the field positions of R112 to R126. -/
theorem test_decode_logic :
    decodeTableWord 32 0xC24C3800 = some (.andR 7#5 18#5 12#5) ∧
    decodeTableWord 32 0xC64C89A7 = some (.andI 0x89a7#16 18#5 12#5) ∧
    decodeTableWord 32 0xD24C3800 = some (.andnotR 7#5 18#5 12#5) ∧
    decodeTableWord 32 0xD64C89A7 = some (.andnotI 0x89a7#16 18#5 12#5) ∧
    decodeTableWord 32 0xE24C3800 = some (.orR 7#5 18#5 12#5) ∧
    decodeTableWord 32 0xE64C89A7 = some (.orI 0x89a7#16 18#5 12#5) ∧
    decodeTableWord 32 0xF24C3800 = some (.xorR 7#5 18#5 12#5) ∧
    decodeTableWord 32 0xF64C89A7 = some (.xorI 0x89a7#16 18#5 12#5) ∧
    decodeTableWord 32 0xCE4C89A7 = some (.andh 0x89a7#16 18#5 12#5) ∧
    decodeTableWord 32 0xDE4C89A7 = some (.andnoth 0x89a7#16 18#5 12#5) ∧
    decodeTableWord 32 0xEE4C89A7 = some (.orh 0x89a7#16 18#5 12#5) ∧
    decodeTableWord 32 0xFE4C89A7 = some (.xorh 0x89a7#16 18#5 12#5) := by decide

/-- Words of 4 rows, written from the field positions of R112 to R126. -/
theorem test_decode_dual :
    decodeTableWord 32 0x4A4C3A89 = some (.pfmam 9#4 { src1 := 7#5, src2 := 18#5, dest := 12#5, s := .single, r := .double, d := true }) ∧
    decodeTableWord 32 0x4A4C3A99 = some (.pfmsm 9#4 { src1 := 7#5, src2 := 18#5, dest := 12#5, s := .single, r := .double, d := true }) ∧
    decodeTableWord 32 0x4A4C3E89 = some (.pfam 9#4 { src1 := 7#5, src2 := 18#5, dest := 12#5, s := .single, r := .double, d := true }) ∧
    decodeTableWord 32 0x4A4C3E99 = some (.pfsm 9#4 { src1 := 7#5, src2 := 18#5, dest := 12#5, s := .single, r := .double, d := true }) := by decide

/-- Words of 6 rows, written from the field positions of R112 to R126. -/
theorem test_decode_multiplier :
    decodeTableWord 32 0x4A4C3AA0 = some (.fmul { src1 := 7#5, src2 := 18#5, dest := 12#5, s := .single, r := .double, d := true }) ∧
    decodeTableWord 32 0x4A4C3EA0 = some (.pfmul { src1 := 7#5, src2 := 18#5, dest := 12#5, s := .single, r := .double, d := true }) ∧
    decodeTableWord 32 0x4A4C39A1 = some (.fmlow { src1 := 7#5, src2 := 18#5, dest := 12#5, d := false }) ∧
    decodeTableWord 32 0x4A4C02A2 = some (.frcp { src := 18#5, dest := 12#5, s := .single, r := .double, d := true }) ∧
    decodeTableWord 32 0x4A4C02A3 = some (.frsqr { src := 18#5, dest := 12#5, s := .single, r := .double, d := true }) ∧
    decodeTableWord 32 0x4A4C3DA4 = some (.pfmul3 { src1 := 7#5, src2 := 18#5, dest := 12#5, d := false }) := by decide

/-- Words of 14 rows, written from the field positions of R112 to R126. -/
theorem test_decode_adder :
    decodeTableWord 32 0x4A4C3AB0 = some (.fadd { src1 := 7#5, src2 := 18#5, dest := 12#5, s := .single, r := .double, d := true }) ∧
    decodeTableWord 32 0x4A4C3EB0 = some (.pfadd { src1 := 7#5, src2 := 18#5, dest := 12#5, s := .single, r := .double, d := true }) ∧
    decodeTableWord 32 0x4A4C3AB1 = some (.fsub { src1 := 7#5, src2 := 18#5, dest := 12#5, s := .single, r := .double, d := true }) ∧
    decodeTableWord 32 0x4A4C3EB1 = some (.pfsub { src1 := 7#5, src2 := 18#5, dest := 12#5, s := .single, r := .double, d := true }) ∧
    decodeTableWord 32 0x480C3AB2 = some (.fix { src := 7#5, dest := 12#5, s := .single, r := .double, d := true }) ∧
    decodeTableWord 32 0x480C3EB2 = some (.pfix { src := 7#5, dest := 12#5, s := .single, r := .double, d := true }) ∧
    decodeTableWord 32 0x480C3AB3 = some (.famov { src := 7#5, dest := 12#5, s := .single, r := .double, d := true }) ∧
    decodeTableWord 32 0x480C3EB3 = some (.pfamov { src := 7#5, dest := 12#5, s := .single, r := .double, d := true }) ∧
    decodeTableWord 32 0x480C3ABA = some (.ftrunc { src := 7#5, dest := 12#5, s := .single, r := .double, d := true }) ∧
    decodeTableWord 32 0x480C3EBA = some (.pftrunc { src := 7#5, dest := 12#5, s := .single, r := .double, d := true }) ∧
    decodeTableWord 32 0x4A4C3D34 = some (.pfgt { src1 := 7#5, src2 := 18#5, dest := 12#5, s := .double, d := false }) ∧
    decodeTableWord 32 0x4A4C3DB4 = some (.pfle { src1 := 7#5, src2 := 18#5, dest := 12#5, s := .double, d := false }) ∧
    decodeTableWord 32 0x4A4C3EB5 = some (.pfeq { src1 := 7#5, src2 := 18#5, dest := 12#5, s := .single, r := .double, d := true }) ∧
    decodeTableWord 32 0x480C3840 = some (.fxfr { src := 7#5, dest := 12#5, d := false }) := by decide

/-- Words of 14 rows, written from the field positions of R112 to R126. -/
theorem test_decode_graphics :
    decodeTableWord 32 0x4A4C3AC9 = some (.fiadd { src1 := 7#5, src2 := 18#5, dest := 12#5, s := .single, r := .double, d := true }) ∧
    decodeTableWord 32 0x4A4C3EC9 = some (.pfiadd { src1 := 7#5, src2 := 18#5, dest := 12#5, s := .single, r := .double, d := true }) ∧
    decodeTableWord 32 0x4A4C3ACD = some (.fisub { src1 := 7#5, src2 := 18#5, dest := 12#5, s := .single, r := .double, d := true }) ∧
    decodeTableWord 32 0x4A4C3ECD = some (.pfisub { src1 := 7#5, src2 := 18#5, dest := 12#5, s := .single, r := .double, d := true }) ∧
    decodeTableWord 32 0x4A4C3AD0 = some (.faddp { src1 := 7#5, src2 := 18#5, dest := 12#5, s := .single, r := .double, d := true }) ∧
    decodeTableWord 32 0x4A4C3ED0 = some (.pfaddp { src1 := 7#5, src2 := 18#5, dest := 12#5, s := .single, r := .double, d := true }) ∧
    decodeTableWord 32 0x4A4C3AD1 = some (.faddz { src1 := 7#5, src2 := 18#5, dest := 12#5, s := .single, r := .double, d := true }) ∧
    decodeTableWord 32 0x4A4C3ED1 = some (.pfaddz { src1 := 7#5, src2 := 18#5, dest := 12#5, s := .single, r := .double, d := true }) ∧
    decodeTableWord 32 0x4A4C3AD7 = some (.fzchkl { src1 := 7#5, src2 := 18#5, dest := 12#5, s := .single, r := .double, d := true }) ∧
    decodeTableWord 32 0x4A4C3ED7 = some (.pfzchkl { src1 := 7#5, src2 := 18#5, dest := 12#5, s := .single, r := .double, d := true }) ∧
    decodeTableWord 32 0x480C3ADA = some (.form { src := 7#5, dest := 12#5, s := .single, r := .double, d := true }) ∧
    decodeTableWord 32 0x480C3EDA = some (.pform { src := 7#5, dest := 12#5, s := .single, r := .double, d := true }) ∧
    decodeTableWord 32 0x4A4C3ADF = some (.fzchks { src1 := 7#5, src2 := 18#5, dest := 12#5, s := .single, r := .double, d := true }) ∧
    decodeTableWord 32 0x4A4C3EDF = some (.pfzchks { src1 := 7#5, src2 := 18#5, dest := 12#5, s := .single, r := .double, d := true }) := by decide

/-! ### Single steps, from spec/95_test_vectors.md (the vector is named) and the examples of the rules -/

/-- The state after reset with pc at an address. -/
def at' (pc : Word) : State := { State.reset with pc := pc }

/-- A state with an instruction word placed in memory. -/
def putWord (s : State) (a w : Word) : State := { s with mem := s.mem.setWord false a w }

/-- One step of a word fetched at pc answers a next state with a property. -/
def steps (w : Word) (s : State) (p : State → Bool) : Bool :=
  match step (s.withFetchWord 32 w.toNat) with
  | .next t => p t
  | .fault _ => false
  | .refused _ => false

/-- One step of a word fetched at pc is refused for a reason. -/
def refuses (w : Word) (s : State) (r : Refusal) : Bool :=
  match step (s.withFetchWord 32 w.toNat) with
  | .next _ => false
  | .fault _ => false
  | .refused q => q == r

/-- The next state is a trap entry with a trap bit of psr set and an address in fir. -/
def trapped (t : State) (bit : Nat) (fir : Word) : Bool :=
  t.psr.getLsbD bit && t.fir == fir && t.firTrap && t.pc == 0xFFFFFF00#32 && !t.user && !t.pendSync && !t.pendDslot

/-- Operands in r1 and r2. -/
def r12 (a b : Word) : State := ((at' 0x9000#32).setX 1#5 a).setX 2#5 b
/-- Operands in f4 and f5. -/
def f45 (a b : Word) : State := ((at' 0x9000#32).setF 4#5 a).setF 5#5 b
/-- Operands in f4:f5 and f6:f7. -/
def fd46 (a b : Dword) : State := ((at' 0x9000#32).setFd 4#5 a).setFd 6#5 b

-- Integer
theorem test_addu_carry :
    steps 0x80430800#32 (r12 0xFFFFFFFF#32 2#32) (fun t => t.x 3#5 == 1#32 && t.cc && t.ovf) = true := by decide
theorem test_addu_immediate :
    steps 0x8444FFFF#32 (r12 0#32 0#32) (fun t => t.x 4#5 == 0xFFFFFFFF#32 && !t.cc && !t.ovf) = true := by decide
theorem test_subu_borrow :
    steps 0x88430800#32 (r12 1#32 2#32) (fun t => t.x 3#5 == 0xFFFFFFFF#32 && !t.cc && t.ovf) = true := by decide
theorem test_subu_equal :
    steps 0x88430800#32 (r12 9#32 9#32) (fun t => t.x 3#5 == 0#32 && t.cc && !t.ovf) = true := by decide
theorem test_adds_negative :
    steps 0x90430800#32 (r12 5#32 0xFFFFFFF0#32) (fun t => t.x 3#5 == 0xFFFFFFF5#32 && t.cc && !t.ovf) = true := by decide
theorem test_adds_overflow :
    steps 0x90430800#32 (r12 0x7FFFFFFF#32 0x7FFFFFFF#32)
      (fun t => t.x 3#5 == 0xFFFFFFFE#32 && !t.cc && t.ovf) = true := by decide
theorem test_subs_less :
    steps 0x98430800#32 (r12 3#32 7#32) (fun t => t.x 3#5 == 0xFFFFFFFC#32 && t.cc && !t.ovf) = true := by decide
theorem test_subs_overflow :
    steps 0x98430800#32 (r12 0x80000000#32 1#32) (fun t => t.x 3#5 == 0x7FFFFFFF#32 && t.cc && t.ovf) = true := by decide
theorem test_shl : steps 0xA0430800#32 (r12 4#32 0xF#32) (fun t => t.x 3#5 == 0xF0#32) = true := by decide
theorem test_shl_large_count :
    steps 0xA0430800#32 (r12 32#32 1#32) (fun t => t.freeCount == 1 && t.pc == 0x9004#32) = true := by decide
theorem test_shr :
    steps 0xA8430800#32 (r12 8#32 0x12345678#32) (fun t => t.x 3#5 == 0x00123456#32 && t.sc == 8#5) = true := by decide
theorem test_shra : steps 0xB8430800#32 (r12 4#32 0xF0000000#32) (fun t => t.x 3#5 == 0xFF000000#32) = true := by decide
theorem test_shrd :
    steps 0xB0430800#32 ((r12 0xAB#32 0x12345678#32).setSC 8#5) (fun t => t.x 3#5 == 0xAB123456#32) = true := by decide
theorem test_shrd_sc0 :
    steps 0xB0430800#32 (r12 0xAB#32 0x12345678#32) (fun t => t.x 3#5 == 0x12345678#32) = true := by decide
theorem test_and : steps 0xC44300FF#32 (r12 0#32 0x1234567F#32) (fun t => t.x 3#5 == 0x7F#32 && !t.cc) = true := by decide
theorem test_and_zero : steps 0xC44300FF#32 (r12 0#32 0x12345600#32) (fun t => t.x 3#5 == 0#32 && t.cc) = true := by decide
theorem test_andnot :
    steps 0xD443000F#32 (r12 0#32 0x1234567F#32) (fun t => t.x 3#5 == 0x12345670#32 && !t.cc) = true := by decide
theorem test_andh : steps 0xCC43FFFF#32 (r12 0#32 0xFFFF#32) (fun t => t.x 3#5 == 0#32 && t.cc) = true := by decide
theorem test_andnoth :
    steps 0xDC438000#32 (r12 0#32 0x80001234#32) (fun t => t.x 3#5 == 0x1234#32 && !t.cc) = true := by decide
theorem test_or : steps 0xE4031234#32 (r12 0#32 0#32) (fun t => t.x 3#5 == 0x1234#32 && !t.cc) = true := by decide
theorem test_orh : steps 0xEC031234#32 (r12 0#32 0#32) (fun t => t.x 3#5 == 0x12340000#32) = true := by decide
theorem test_xor : steps 0xF443FFFF#32 (r12 0#32 0xFFFF#32) (fun t => t.x 3#5 == 0#32 && t.cc) = true := by decide
theorem test_xorh :
    steps 0xFC438000#32 (r12 0#32 0x3F800000#32) (fun t => t.x 3#5 == 0xBF800000#32 && !t.cc) = true := by decide

-- Memory and translation
/-- A state with an address in r2. -/
def m2 (r2 : Word) : State := (at' 0x9000#32).setX 2#5 r2
/-- The tables of V-MEM-7, with a page-table entry. -/
def paged (pde pte psr : Word) : State :=
  putWord (putWord (putWord ({ at' 0x00401238#32 with psr := psr, dirbase := 0x00010001#32 }.setX 2#5 0x00401234#32) 0x10004#32 pde)
    0x20004#32 pte) 0x30234#32 0xCAFEBABE#32
/-- The little-endian word at an address. -/
def wordAt (t : State) (a : Word) : Word := t.mem.word false a

theorem test_ldb :
    steps 0x04430001#32 (putWord (m2 0x100#32) 0x100#32 0x8000#32) (fun t => t.x 3#5 == 0xFFFFFF80#32) = true := by decide
theorem test_lds :
    steps 0x14440002#32 (putWord (m2 0x200#32) 0x200#32 0x80010000#32)
      (fun t => t.x 4#5 == 0xFFFF8001#32) = true := by decide
theorem test_ldl :
    steps 0x14450005#32 (putWord (m2 0x300#32) 0x304#32 0xDEADBEEF#32)
      (fun t => t.x 5#5 == 0xDEADBEEF#32) = true := by decide
theorem test_stb :
    steps 0x0C403003#32 ((m2 0x400#32).setX 6#5 0x1234ABCD#32)
      (fun t => t.mem.byteAt 0x403#32 == 0xCD#8 && t.mem.byteAt 0x402#32 == 0#8) = true := by decide
theorem test_sts :
    steps 0x1C403002#32 ((m2 0x400#32).setX 6#5 0x1234ABCD#32)
      (fun t => wordAt t 0x400#32 == 0xABCD0000#32) = true := by decide
theorem test_stl :
    steps 0x1C403009#32 ((m2 0x400#32).setX 6#5 0x1234ABCD#32)
      (fun t => wordAt t 0x408#32 == 0x1234ABCD#32 && t.mem.wf) = true := by decide
theorem test_ldl_unaligned :
    steps 0x14450001#32 (m2 0x302#32)
      (fun t => trapped t 11 0x9000#32 && t.x 5#5 == 0#32 && t.bus.length == 1 && t.trapInfo == { cls := .dat, reason := .unaligned, detail := .access 0x302#32 .read }) = true := by decide
theorem test_translated_load :
    steps 0x14450001#32 (paged 0x00020007#32 0x00030007#32 0#32)
      (fun t => t.x 5#5 == 0xCAFEBABE#32 && wordAt t 0x10004#32 == 0x00020027#32 && wordAt t 0x20004#32 == 0x00030027#32) = true := by decide
theorem test_dirty_trap :
    steps 0x1C402801#32 (paged 0x00020007#32 0x00030007#32 0#32)
      (fun t => trapped t 11 0x00401238#32 && wordAt t 0x30234#32 == 0xCAFEBABE#32 && wordAt t 0x20004#32 == 0x00030027#32) = true := by decide
theorem test_dirty_store :
    steps 0x1C402801#32 (paged 0x00020007#32 0x00030047#32 0#32)
      (fun t => wordAt t 0x30234#32 == 0#32 && wordAt t 0x20004#32 == 0x00030067#32) = true := by decide
theorem test_supervisor_write_wp1 :
    steps 0x1C402801#32 { paged 0x00020007#32 0x00030045#32 0#32 with epsr := 0x4000#32 }
      (fun t => trapped t 11 0x00401238#32 && wordAt t 0x30234#32 == 0xCAFEBABE#32) = true := by decide
/-- V-MEM-10 and V-MEM-14: with P = 0 in the directory entry the fetch itself takes IAT; no accessed bit is written. -/
theorem test_fetch_not_present :
    (match step (paged 0x00020006#32 0x00030007#32 0#32) with | .next t => trapped t 10 0x00401238#32 && wordAt t 0x10004#32 == 0x00020006#32 && t.bus.length == 1 | .fault _ => false | .refused _ => false) = true := by decide
/-- V-MEM-11's check, made by the fetch: a user-mode access to a supervisor page. -/
theorem test_fetch_user_check :
    (match step (paged 0x00020007#32 0x00030003#32 0x40#32) with | .next t => trapped t 10 0x00401238#32 && t.pu | .fault _ => false | .refused _ => false) = true := by decide
theorem test_ixfr :
    steps 0x08043800#32 ((m2 0#32).setX 7#5 0x3F800000#32) (fun t => t.f 4#5 == 0x3F800000#32) = true := by decide
theorem test_fldd :
    steps 0x24460008#32 (putWord (m2 0x1000#32) 0x100C#32 0x3FF00000#32)
      (fun t => t.fd 6#5 == 0x3FF0000000000000#64 && t.f 7#5 == 0x3FF00000#32) = true := by decide
theorem test_fldl_increment :
    steps 0x24440007#32 (putWord (m2 0x1000#32) 0x1004#32 0x77#32)
      (fun t => t.f 4#5 == 0x77#32 && t.x 2#5 == 0x1004#32) = true := by decide
theorem test_fldl_unaligned :
    steps 0x24440007#32 (m2 0x1002#32) (fun t => trapped t 11 0x9000#32 && t.x 2#5 == 0x1002#32) = true := by decide
theorem test_fldd_odd : refuses 0x24450000#32 (m2 0#32) .misalignedFpRegister = true := by decide
theorem test_fldq :
    steps 0x24440004#32 (putWord (putWord (putWord (m2 0x1000#32) 0x1000#32 1#32) 0x1008#32 3#32) 0x100C#32 4#32)
      (fun t => t.fd 4#5 == 1#64 && t.fd 6#5 == 0x400000003#64) = true := by decide
theorem test_fstd :
    steps 0x2C460010#32 ((m2 0x1000#32).setFd 6#5 0x3FF0000000000000#64)
      (fun t => wordAt t 0x1010#32 == 0#32 && wordAt t 0x1014#32 == 0x3FF00000#32) = true := by decide
theorem test_fstd_big_endian :
    steps 0x2C460010#32 ({ m2 0x1000#32 with epsr := 0x00800000#32 }.setFd 6#5 0x3FF0000000000001#64)
      (fun t => wordAt t 0x1010#32 == 0x0000F03F#32 && wordAt t 0x1014#32 == 0x01000000#32) = true := by decide
theorem test_fstq :
    steps 0x2C440004#32 (((m2 0x1000#32).setFd 4#5 0x200000001#64).setFd 6#5 0x400000003#64)
      (fun t => wordAt t 0x1000#32 == 1#32 && wordAt t 0x1004#32 == 2#32 && wordAt t 0x1008#32 == 3#32 && wordAt t 0x100C#32 == 4#32) = true := by decide
/-- V-LS-9, fourth instruction. -/
theorem test_pfld :
    steps 0x6448000E#32 { putWord (m2 0x500#32) 0x50C#32 4#32 with loader := { s1 := some (entryOf .single 3#64), s2 := some (entryOf .single 2#64), s3 := some (entryOf .single 1#64) } }
      (fun t => t.f 8#5 == 1#32 && t.loader == { s1 := some (entryOf .single 4#64), s2 := some (entryOf .single 3#64), s3 := some (entryOf .single 2#64) }) = true := by decide
theorem test_pfld_empty :
    steps 0x64480002#32 (putWord (m2 0x500#32) 0x500#32 1#32)
      (fun t => t.freeCount == 1 && t.loader == { s1 := some (entryOf .single 1#64), s2 := none, s3 := none }) = true := by decide
theorem test_pst :
    steps 0x3C4A0000#32 ({ m2 0x2000#32 with psr := 0x05000000#32 }.setFd 10#5 0x8877665544332211#64)
      (fun t => wordAt t 0x2000#32 == 0x00330011#32 && wordAt t 0x2004#32 == 0#32 && t.pm == 0#8) = true := by decide
theorem test_flush :
    steps 0x34400021#32 (m2 0x3000#32) (fun t => t.x 2#5 == 0x3020#32 && t.bus.length == 1) = true := by decide
/-- R174: a dest field other than 0 takes a free value after the auto-increment, and the register of the base stands. -/
theorem test_flush_dest :
    steps 0x34450021#32 (m2 0x3000#32)
      (fun t => t.x 2#5 == 0x3020#32 && t.x 6#5 == 0#32 && t.freeCount == 1 && t.bus.length == 1) = true := by decide

-- Control transfer
/-- A branch's state with the word of its slot. -/
def slotted (pc slot : Word) : State := putWord (at' pc) (pc + 4#32) slot
/-- `or 0x1234, r0, r3`, a slot whose execution shows. -/
def orSlot : Word := 0xE4031234#32
/-- That slot was executed. -/
def ranSlot (t : State) : Bool := t.x 3#5 == 0x1234#32
theorem test_br :
    steps 0x68000003#32 (slotted 0x1000#32 orSlot) (fun t => ranSlot t && t.pc == 0x1010#32) = true := by decide
theorem test_call :
    steps 0x6C000010#32 (slotted 0x2000#32 orSlot)
      (fun t => ranSlot t && t.pc == 0x2044#32 && t.x 1#5 == 0x2008#32) = true := by decide
theorem test_bc :
    steps 0x70000002#32 ((slotted 0x3000#32 orSlot).setCC true)
      (fun t => !ranSlot t && t.pc == 0x300C#32) = true := by decide
theorem test_bnc :
    steps 0x78000002#32 ((slotted 0x3000#32 orSlot).setCC true) (fun t => t.pc == 0x3004#32) = true := by decide
theorem test_bct_taken :
    steps 0x74000002#32 ((slotted 0x3000#32 0xA0000000#32).setCC true) (fun t => t.pc == 0x300C#32) = true := by decide
theorem test_bct_skipped :
    steps 0x74000002#32 (slotted 0x3000#32 orSlot) (fun t => !ranSlot t && t.pc == 0x3008#32) = true := by decide
theorem test_bnct_taken :
    steps 0x7C000002#32 (slotted 0x3000#32 0xA0000000#32) (fun t => t.pc == 0x300C#32) = true := by decide
theorem test_bla_taken :
    steps 0xB4BF27FD#32 ((((slotted 0x4000#32 orSlot).setX 4#5 0xFFFFFFFF#32).setX 5#5 2#32).setLCC true)
      (fun t => t.x 5#5 == 1#32 && t.lcc && ranSlot t && t.pc == 0x3FF8#32) = true := by decide
theorem test_bla_not_taken :
    steps 0xB4BF27FD#32 (((slotted 0x4000#32 orSlot).setX 4#5 0xFFFFFFFF#32).setX 5#5 0#32)
      (fun t => t.x 5#5 == 0xFFFFFFFF#32 && !t.lcc && ranSlot t && t.pc == 0x4008#32) = true := by decide
theorem test_bri_return :
    steps 0x40000800#32 ({ slotted 0x1000#32 orSlot with psr := 0x1A0#32 }.setX 1#5 0x5000#32)
      (fun t => t.psr == 0xF0#32 && t.pc == 0x5000#32) = true := by decide
theorem test_bri_plain :
    steps 0x40000800#32 ((slotted 0x1000#32 orSlot).setX 1#5 0x6000#32)
      (fun t => t.psr == 0#32 && t.pc == 0x6000#32) = true := by decide
theorem test_bte :
    steps 0x58400804#32 (((at' 0x6000#32).setX 1#5 7#32).setX 2#5 7#32) (fun t => t.pc == 0x6014#32) = true := by decide
theorem test_btne : steps 0x545F07FE#32 ((at' 0x6000#32).setX 2#5 7#32) (fun t => t.pc == 0x5FFC#32) = true := by decide
theorem test_calli :
    steps 0x4C002802#32 ((slotted 0x7000#32 orSlot).setX 5#5 0x8000#32)
      (fun t => t.x 1#5 == 0x7008#32 && ranSlot t && t.pc == 0x8000#32) = true := by decide
theorem test_branch_in_slot :
    refuses 0x68000003#32 (slotted 0x1000#32 0x68000001#32) .controlTransferInSlot = true := by decide
theorem test_link_in_call_slot :
    refuses 0x6C000010#32 (slotted 0x2000#32 0x80200800#32) .linkRegisterInCallSlot = true := by decide
/-- V-CT-16. -/
theorem test_call_slot_trap :
    steps 0x6C000010#32 ((slotted 0x2000#32 0x14450001#32).setX 2#5 0x302#32)
      (fun t => trapped t 11 0x2004#32 && t.x 1#5 == 0x2008#32 && t.dslotTarget == 0x2044#32 && t.psr == 0x800#32) = true := by decide
theorem test_stuck_fetch :
    (match step (at' 0x1002#32) with | .next _ => false | .fault f => f == .stuckFetch | .refused _ => false) = true := by decide

-- System
theorem test_ldc_fir :
    steps 0x30030000#32 { at' 0xFFFFFF00#32 with fir := 0x9000#32, firTrap := true }
      (fun t => t.x 3#5 == 0x9000#32 && !t.firTrap) = true := by decide
theorem test_ldc_fir_again :
    steps 0x30030000#32 { at' 0xFFFFFF04#32 with fir := 0x9000#32 }
      (fun t => t.x 3#5 == 0xFFFFFF04#32 && t.fir == 0xFFFFFF04#32) = true := by decide
theorem test_stc_psr_supervisor :
    steps 0x38201000#32 (m2 0xFFFFFFFF#32) (fun t => t.psr == 0xFFFEE0FF#32) = true := by decide
theorem test_stc_psr_user :
    steps 0x38201000#32 { m2 0xFFFFFFFF#32 with psr := 0x40#32 } (fun t => t.psr == 0xFFFE004C#32) = true := by decide
theorem test_trap : steps 0x44000000#32 (at' 0x9000#32) (fun t => trapped t 8 0x9000#32) = true := by decide
theorem test_intovr : steps 0x4C000004#32 ((at' 0xA000#32).setOF true) (fun t => trapped t 8 0xA000#32) = true := by decide
theorem test_intovr_clear :
    steps 0x4C000004#32 (at' 0xA000#32) (fun t => t.psr == 0#32 && t.pc == 0xA004#32) = true := by decide
theorem test_lock : steps 0x4C000001#32 (at' 0x9000#32) (fun t => t.readDirbase == 0x10#32) = true := by decide
theorem test_unlock :
    steps 0x4C000007#32 { at' 0x9000#32 with dirbase := 0x10#32 } (fun t => t.readDirbase == 0#32) = true := by decide
/-- V-SRC-5. -/
theorem test_undefined :
    steps 0x18000000#32 (at' 0x5000#32)
      (fun t => trapped t 8 0x5000#32 && t.psr == 0x100#32) &&
    steps 0x4C000000#32 (at' 0x5000#32)
      (fun t => trapped t 8 0x5000#32) &&
    steps 0x4800007F#32 (at' 0x5000#32)
      (fun t => trapped t 8 0x5000#32) &&
    steps 0x30C30000#32 (at' 0x5000#32)
      (fun t => trapped t 8 0x5000#32) = true := by decide

-- Floating-point arithmetic
theorem test_fadd_tie :
    steps 0x48A62030#32 (f45 0x3F800000#32 0x33800000#32)
      (fun t => t.f 6#5 == 0x3F800000#32 && t.fsr == 0x8080#32) = true := by decide
theorem test_fadd_inexact_trap :
    steps 0x48A62030#32 { f45 0x3F800000#32 0x33800000#32 with fsr := 0x22#32 }
      (fun t => trapped t 12 0x9000#32 && t.f 6#5 == 0#32 && t.fsr == 0x80A2#32) = true := by decide
theorem test_fmul_overflow :
    steps 0x48A62020#32 (f45 0x7F000000#32 0x40000000#32)
      (fun t => t.f 6#5 == 0x7F800000#32 && t.fsr == 0xC80#32) = true := by decide
theorem test_fsub_double :
    steps 0x48C821B1#32 (fd46 0x400C000000000000#64 0x3FF0000000000000#64)
      (fun t => t.fd 8#5 == 0x4004000000000000#64) = true := by decide
theorem test_fix :
    steps 0x480621B2#32 (fd46 0x4004000000000000#64 0#64) (fun t => t.f 6#5 == 2#32 && t.fsr.getLsbD 15) = true := by decide
theorem test_fix_down :
    steps 0x480621B2#32 { fd46 0xC004000000000000#64 0#64 with fsr := 4#32 }
      (fun t => t.f 6#5 == 0xFFFFFFFD#32) = true := by decide
theorem test_ftrunc :
    steps 0x480621BA#32 (fd46 0xC004000000000000#64 0#64) (fun t => t.f 6#5 == 0xFFFFFFFE#32) = true := by decide
theorem test_famov :
    steps 0x480620B3#32 (f45 0x3F800000#32 0#32) (fun t => t.fd 6#5 == 0x3FF0000000000000#64) = true := by decide
theorem test_pfgt :
    steps 0x48A02434#32 { f45 0x40000000#32 0x3F800000#32 with adder := { s1 := some (entryOf .single 1#64), s2 := none, s3 := some (entryOf .single 3#64) } }
      (fun t => t.cc && t.adder == { s1 := none, s2 := some (entryOf .single 1#64), s3 := none }) = true := by decide
theorem test_pfle : steps 0x48A024B4#32 (f45 0x3F800000#32 0x3F800000#32) (fun t => !t.cc) = true := by decide
theorem test_pfeq : steps 0x48A02435#32 (f45 0x3F800000#32 0x3F800000#32) (fun t => t.cc) = true := by decide
theorem test_fxfr : steps 0x48032040#32 (f45 0x40400000#32 0#32) (fun t => t.x 3#5 == 0x40400000#32) = true := by decide
theorem test_fmlow : steps 0x48C821A1#32 (fd46 7#64 6#64) (fun t => t.f 8#5 == 0x2A#32) = true := by decide
theorem test_frcp_zero : steps 0x48A60022#32 (f45 0#32 0#32) (fun t => t.se && t.pc == 0x9004#32) = true := by decide
theorem test_frsqr_negative_trap :
    steps 0x48A60023#32 { f45 0#32 0xBF800000#32 with fsr := 0x20#32 }
      (fun t => t.se && trapped t 12 0x9000#32) = true := by decide

-- Pipelines
theorem test_pfadd_retire :
    steps 0x48060430#32 { f45 0#32 0#32 with adder := { s1 := some (entryOf .single 0#64), s2 := some (entryOf .single 0#64), s3 := some (entryOf .single 0x40400000#64) } }
      (fun t => t.f 6#5 == 0x40400000#32 && t.adder.s3 == some (entryOf .single 0#64)) = true := by decide
theorem test_pfmul :
    steps 0x48A62420#32 { f45 0x40000000#32 0x40400000#32 with multiplier := { s1 := none, s2 := none, s3 := some (entryOf .single 0x40C00000#64) } }
      (fun t => t.f 6#5 == 0x40C00000#32 && t.multiplier.s1 == some (entryOf .single 0x40C00000#64)) = true := by decide
/-- V-PIPE-4: a depth-2 issue retires M[2] and empties M[3]. -/
theorem test_pfmul_double :
    steps 0x48C825A0#32 { fd46 0x4000000000000000#64 0x4008000000000000#64 with multiplier := { s1 := some (entryOf .single 1#64), s2 := some (entryOf .single 2#64), s3 := some (entryOf .single 3#64) } }
      (fun t => t.f 8#5 == 2#32 && t.multiplier == { s1 := some (entryOf .double 0x4018000000000000#64), s2 := some (entryOf .single 1#64), s3 := none }) = true := by decide
theorem test_pfmul3 :
    steps 0x48C825A4#32 { fd46 0x4000000000000000#64 0x4008000000000000#64 with multiplier := { s1 := none, s2 := none, s3 := some (entryOf .double 0x3FF8000000000000#64) } }
      (fun t => t.fd 8#5 == 0x3FF8000000000000#64 && t.multiplier.s1 == some (entryOf .double 0x4018000000000000#64)) = true := by decide
theorem test_pfsub_source_is_dest :
    steps 0x48A42431#32 { f45 0x40400000#32 0x3F800000#32 with adder := { s1 := none, s2 := none, s3 := some (entryOf .single 7#64) } }
      (fun t => t.f 4#5 == 7#32 && t.adder.s1 == some (entryOf .single 0x40000000#64)) = true := by decide

-- Dual operations
theorem test_pfam :
    steps 0x48A62400#32 { f45 0x40000000#32 0x40400000#32 with adder := { s1 := none, s2 := none, s3 := some (entryOf .single 0x40A00000#64) }, multiplier := { s1 := none, s2 := none, s3 := some (entryOf .single 0x3F800000#64) } }
      (fun t => t.f 6#5 == 0x40A00000#32 && t.kr == { value := 0x40000000#64, tag := some .single } && t.multiplier.s1 == some (entryOf .single 0x40C00000#64) && t.adder.s1 == some (entryOf .single 0x40400000#64)) = true := by decide
theorem test_pfmam :
    steps 0x48A62009#32 { f45 0x40000000#32 0x40400000#32 with adder := { s1 := none, s2 := none, s3 := some (entryOf .single 0x3F800000#64) }, multiplier := { s1 := none, s2 := none, s3 := some (entryOf .single 0x40C00000#64) } }
      (fun t => t.f 6#5 == 0x40C00000#32 && t.multiplier.s1 == some (entryOf .single 0x40C00000#64) && t.adder.s1 == some (entryOf .single 0x40E00000#64)) = true := by decide
theorem test_pfsm :
    steps 0x48C82599#32 { fd46 0#64 0#64 with adder := { s1 := none, s2 := none, s3 := some (entryOf .double 0x4008000000000000#64) }, multiplier := { s1 := none, s2 := some (entryOf .double 0x3FF0000000000000#64), s3 := none } }
      (fun t => t.adder.s1 == some (entryOf .double 0x4000000000000000#64) && t.fd 8#5 == 0x4008000000000000#64) = true := by decide
theorem test_pfam_mixed :
    refuses 0x48A62400#32 { f45 0#32 0#32 with multiplier := { s1 := none, s2 := none, s3 := some (entryOf .double 9#64) } } .mixedPrecision = true := by decide
theorem test_pfmsm :
    steps 0x48A62019#32 { f45 0x40000000#32 0x40400000#32 with adder := { s1 := none, s2 := none, s3 := some (entryOf .single 0x40400000#64) }, multiplier := { s1 := none, s2 := none, s3 := some (entryOf .single 0x3F800000#64) } }
      (fun t => t.f 6#5 == 0x3F800000#32 && t.adder.s1 == some (entryOf .single 0x40000000#64)) = true := by decide

-- Graphics
theorem test_fiadd : steps 0x48A62049#32 (f45 0xFFFFFFFF#32 2#32) (fun t => t.f 6#5 == 1#32) = true := by decide
theorem test_fisub : steps 0x48A6204D#32 (f45 1#32 2#32) (fun t => t.f 6#5 == 0xFFFFFFFF#32) = true := by decide
theorem test_faddp :
    steps 0x48C821D0#32 { fd46 0x1234567812345678#64 0x0100010001000100#64 with merge := { value := 0#64, tag := none } }
      (fun t => t.fd 8#5 == 0x1334577813345778#64 && t.merge.value == 0x1300570013005700#64) = true := by decide
theorem test_faddz :
    steps 0x48C821D1#32 { fd46 0x0001800000028000#64 0x0000800000008000#64 with merge := { value := 0#64, tag := none } }
      (fun t => t.fd 8#5 == 0x0002000000030000#64 && t.merge.value == 0x0002000000030000#64) = true := by decide
theorem test_fzchkl :
    steps 0x48C821D7#32 { fd46 0x0000000500000010#64 0x000000060000000F#64 with psr := 0x03000000#32 }
      (fun t => t.fd 8#5 == 0x000000050000000F#64 && t.pm == 0x80#8) = true := by decide
theorem test_fzchks :
    steps 0x48C821DF#32 { fd46 0x0005000A00FF1000#64 0x0004000B00FF0FFF#64 with psr := 0xFF000000#32 }
      (fun t => t.fd 8#5 == 0x0004000A00FF0FFF#64 && t.pm == 0x4F#8) = true := by decide
theorem test_form :
    steps 0x480821DA#32 { fd46 0x0000001200000034#64 0#64 with merge := { value := 0x1300570013005700#64, tag := none } }
      (fun t => t.fd 8#5 == 0x1300571213005734#64 && t.merge.value == 0#64) = true := by decide
theorem test_faddp_ps3 : refuses 0x48C821D0#32 { fd46 0#64 0#64 with psr := 0x00C00000#32 } .pixelSize3 = true := by decide
theorem test_pfiadd :
    steps 0x48A62449#32 { f45 1#32 2#32 with graphics := some (entryOf .single 3#64) }
      (fun t => t.f 6#5 == 3#32 && t.graphics == some (entryOf .single 3#64)) = true := by decide

-- Traps, interrupts, pins
theorem test_interrupt :
    steps 0x80430800#32 { at' 0x3000#32 with psr := 0x50#32, intPin := true }
      (fun t => t.psr == 0x2A0#32 && t.fir == 0x3004#32 && t.pc == 0xFFFFFF00#32) = true := by decide
theorem test_interrupt_after_branch :
    steps 0x68000003#32 { slotted 0x1000#32 orSlot with psr := 0x10#32, intPin := true }
      (fun t => ranSlot t && t.fir == 0x1010#32 && t.psr.getLsbD 9) = true := by decide
theorem test_interrupt_with_trap :
    steps 0x44000000#32 { at' 0x9000#32 with psr := 0x10#32, intPin := true }
      (fun t => trapped t 8 0x9000#32 && t.psr.getLsbD 9) = true := by decide
theorem test_hold : step { at' 0x9000#32 with holdPin := true } = .next { at' 0x9000#32 with holdPin := true } := rfl
theorem test_knf :
    steps 0x48A62030#32 { f45 0x3F800000#32 0x40000000#32 with psr := 0x8000#32 }
      (fun t => t.f 6#5 == 0#32 && t.psr == 0#32 && t.pc == 0x9004#32) = true := by decide
theorem test_reset_clears_pending :
    (State.assertReset { at' 0x9000#32 with pendExt := true }).pendExt = false ∧ (State.assertReset (at' 0x9000#32)).pc = 0xFFFFFF00#32 := by decide

/-! ### Witnesses: a concrete state and operands that meet the hypotheses of each statement -/

/-- A word in memory. -/
def cellMemory : Memory := Memory.setWord { cells := [] } false 0xFFFFFFFE#32 0x12345678#32

theorem witness_RegisterFile : (30#5).getLsbD 0 = false ∧ (30#5 : Reg) ≠ 0#5 ∧ (30#5 : Reg) ≠ 1#5 ∧ (2#5 : Reg) ≠ 30#5 ∧
    (2#5 : Reg) ≠ 30#5 + 1#5 := by decide

theorem witness_MemoryReadAfterWrite : cellMemory.wf = true ∧ (∀ k, k < 4 → 2#32 ≠ 0xFFFFFFFE#32 + BitVec.ofNat 32 k) ∧
    (∀ k, k < 2 → 0#32 ≠ 0xFFFFFFFE#32 + BitVec.ofNat 32 k) := by decide

/-- IllFormedRefused: an odd register of a double, a fetched pfld.q, and a fadd with D = 1 where DUAL_MODE_POLICY is `refuse`. -/
theorem witness_IllFormedRefused : wellFormed (.flddR 0#5 0#5 1#5 false) = false ∧ State.reset.knf = false ∧
    (∃ t, fetch 0x5000#32 (putWord (at' 0x5000#32) 0x5000#32 0x60000004#32) = .done 0x60000004#32 t ∧ t.knf = false) ∧
    decodeWord 0x60000004#32 = .reserved .pfldQuad false ∧ decodeWord 0x48000A30#32 ≠ .undefined ∧
    (let o : Fp3 := { src1 := 4#5, src2 := 5#5, dest := 6#5, s := .single, r := .single, d := true };
      (opFlags (encode (.fadd o))).fp = true ∧ (encode (.fadd o)).getLsbD 9 = true) ∧
    (State.resetWith { defaultParams with dualModePolicy := .refuse }).params.dualModePolicy = .refuse :=
  ⟨by decide, by decide, ⟨_, rfl, by decide⟩, by decide, by decide, by decide, rfl⟩

/-- The refusals of an instruction that decodes: one of the core with KNF set, PS = 3, an operand of the other precision, and an odd fdest
for the double entry that leaves each pipeline. -/
theorem witness_IllFormedRefused_operands :
    (wellFormed (.flddR 0#5 0#5 1#5 false) = false ∧ (opFlags (encode (.flddR 0#5 0#5 1#5 false))).fp = false) ∧
    State.ps { State.reset with psr := 0x00C00000#32 } = 3#2 ∧ State.knf { State.reset with psr := 0x00C00000#32 } = false ∧
    (let e : Option Entry := some { value := 5#64, prec := .double }
      let s := { State.reset with
        adder := { s1 := none, s2 := none, s3 := e }, multiplier := { s1 := none, s2 := e, s3 := e }
        loader := { s1 := none, s2 := none, s3 := e }, graphics := e }
      let o : Fp3 := { src1 := 4#5, src2 := 5#5, dest := 7#5, s := .single, r := .single, d := false }
      s.knf = false ∧ (dualOperands 8#4 o s).m2 = .value 5#64 (some .double) ∧ o.s ≠ .double ∧ o.dest.getLsbD 0 = true ∧
        s.adder.s3 = some { value := 5#64, prec := .double } ∧ s.multiplier.s2 = some { value := 5#64, prec := .double } ∧
        s.multiplier.s3 = some { value := 5#64, prec := .double } ∧ s.graphics = some { value := 5#64, prec := .double } ∧
        s.loader.s3 = some { value := 5#64, prec := .double } ∧ Accessible 3 .read 0x1000#32 s 0x1000#32 s ∧
        Accessible 2 .read 0x1000#32 s 0x1000#32 s) :=
  ⟨by decide, by decide, by decide, by decide, by decide, by decide, by decide, rfl, rfl, rfl, rfl, rfl, ⟨by decide, by decide, rfl⟩,
    by decide, by decide, rfl⟩

/-- An addu at a fetched address, by the fetch and by the bytes; a word that decodes to an ill-formed instruction; with translation on, the
word at the physical address, and a translation that faults. -/
theorem witness_StepRunsDecoded :
    (putWord (at' 0x1000#32) 0x1000#32 0x80430800#32).held = false ∧
    (∃ w t, fetch 0x1000#32 (putWord (at' 0x1000#32) 0x1000#32 0x80430800#32) = .done w t ∧
      decodeWord w = .instr (.adduR 1#5 2#5 3#5)) ∧
    (putWord (at' 0x1000#32) 0x1000#32 0x80430800#32).ate = false ∧
    decodeBytes false [0x00#8, 0x08#8, 0x43#8, 0x80#8] = some (.instr (.adduR 1#5 2#5 3#5), []) ∧
    (∃ w t, fetch 0x1000#32 (putWord (at' 0x1000#32) 0x1000#32 0x20410000#32) = .done w t ∧
      decodeWord w = .instr (.flddR 0#5 2#5 1#5 false) ∧ wellFormed (.flddR 0#5 2#5 1#5 false) = false) ∧
    (let s := putWord (paged 0x00020007#32 0x00030007#32 0#32) 0x30238#32 0x80430800#32;
      s.ate = true ∧ s.held = false ∧ s.pc.toNat % 4 = 0 ∧
        ∃ t, translate s.pc .execute s = .done 0x30238#32 t ∧
          decodeWord (t.mem.word s.params.fetchBigEndian 0x30238#32) = .instr (.adduR 1#5 2#5 3#5)) ∧
    (let s := paged 0x00020006#32 0x00030007#32 0#32;
      s.held = false ∧ s.pc.toNat % 4 = 0 ∧ s.pendDslot = false ∧
        translate s.pc .execute s = raise .iat .instructionAccess (.access s.pc .execute)
          { s with mem := s.mem, bus := [readOf (s.pdeAddr s.pc) 4 0x00020006#32] }) := by
  refine ⟨by decide, ⟨_, _, rfl, by decide⟩, by decide, by decide, ⟨_, _, rfl, by decide, by decide⟩, ?_, by decide, by decide, by decide, rfl⟩
  exact ⟨by decide, by decide, by decide, _, rfl, by decide⟩

theorem witness_UndefinedOpcodeTraps :
    (putWord (at' 0x5000#32) 0x5000#32 0x18000000#32).held = false ∧
    (putWord (at' 0x5000#32) 0x5000#32 0x18000000#32).pendDslot = false ∧
    ∃ w t, fetch 0x5000#32 (putWord (at' 0x5000#32) 0x5000#32 0x18000000#32) = .done w t ∧ decodeWord w = .undefined :=
  ⟨by decide, by decide, _, _, rfl, by decide⟩

theorem witness_MisalignedFetchStuck : (at' 0x1001#32).held = false ∧ (at' 0x1001#32).pc.extractLsb' 0 2 ≠ 0#2 := by decide

theorem witness_HoldDoesNothing : ((at' 0#32).setHold true).holdPin = true ∧ (at' 0#32).assertReset.resetPin = true := by decide

theorem witness_ShiftsInRange : ((r12 31#32 1#32).x 1#5).toNat < 32 ∧ ((r12 0#32 1#32).x 1#5).toNat < 32 ∧
    (31#16).toNat < 32 := by decide

theorem witness_ShiftsOutOfRange : 32 ≤ ((r12 32#32 1#32).x 1#5).toNat ∧ 32 ≤ ((r12 0xFFFFFFFF#32 1#32).x 1#5).toNat ∧
    32 ≤ (32#16).toNat ∧ 32 ≤ (0xFFFF#16).toNat := by decide

/-- With translation off every aligned address is accessible; at the last byte, halfword and word, and at the last 8 and 16 bytes. -/
theorem witness_access_untranslated : State.reset.mem.wf = true ∧
    Accessible 0 .read 0xFFFFFFFF#32 State.reset 0xFFFFFFFF#32 State.reset ∧
    Accessible 1 .read 0xFFFFFFFE#32 State.reset 0xFFFFFFFE#32 State.reset ∧
    Accessible 2 .read 0xFFFFFFFC#32 State.reset 0xFFFFFFFC#32 State.reset ∧
    Accessible 3 .read 0xFFFFFFF8#32 State.reset 0xFFFFFFF8#32 State.reset ∧
    Accessible 4 .read 0xFFFFFFF0#32 State.reset 0xFFFFFFF0#32 State.reset ∧
    Accessible 0 .write 1#32 State.reset 1#32 State.reset ∧ Accessible 1 .write 2#32 State.reset 2#32 State.reset ∧
    Accessible 2 .write 4#32 State.reset 4#32 State.reset ∧ Accessible 3 .write 8#32 State.reset 8#32 State.reset ∧
    Accessible 4 .write 16#32 State.reset 16#32 State.reset :=
  ⟨rfl, ⟨rfl, rfl, rfl⟩, ⟨rfl, rfl, rfl⟩, ⟨rfl, rfl, rfl⟩, ⟨rfl, rfl, rfl⟩, ⟨rfl, rfl, rfl⟩, ⟨rfl, rfl, rfl⟩, ⟨rfl, rfl, rfl⟩,
    ⟨rfl, rfl, rfl⟩, ⟨rfl, rfl, rfl⟩, ⟨rfl, rfl, rfl⟩⟩

/-- With translation on, the page of V-MEM-7 is accessible for reading, and, when it is dirty, for writing, in user mode too. -/
theorem witness_access_translated :
    (paged 0x00020007#32 0x00030047#32 0x40#32).mem.wf = true ∧
    (∃ t, Accessible 2 .read 0x00401234#32 (paged 0x00020007#32 0x00030007#32 0#32) 0x00030234#32 t) ∧
    (∃ t, Accessible 2 .write 0x00401234#32 (paged 0x00020007#32 0x00030047#32 0#32) 0x00030234#32 t) ∧
    ∃ t, Accessible 2 .write 0x00401234#32 (paged 0x00020007#32 0x00030047#32 0x40#32) 0x00030234#32 t :=
  ⟨by decide, ⟨_, rfl, rfl, rfl⟩, ⟨_, rfl, rfl, rfl⟩, ⟨_, rfl, rfl, rfl⟩⟩

/-- IntegerLoads, IntegerStores: effective addresses that are accessible, in every form. -/
theorem witness_integer_addresses :
    State.reset.x 1#5 + State.reset.x 2#5 = 0#32 ∧ dispByte 0xFFFF#16 + State.reset.x 2#5 = 0xFFFFFFFF#32 ∧
    dispHalf 0x7FFF#15 + State.reset.x 2#5 = 0xFFFFFFFE#32 ∧ dispWord 0x7FFF#15 + State.reset.x 2#5 = 0xFFFFFFFC#32 ∧
    Accessible 2 .read 0#32 State.reset 0#32 State.reset :=
  ⟨by decide, by decide, by decide, by decide, rfl, rfl, rfl⟩

/-- FloatingLoads, FloatingStores, PipelinedLoads: accessible effective addresses, aligned registers, an empty and a full last stage. -/
theorem witness_floating_addresses :
    alignedFor .double 30#5 = true ∧ alignedQuad 28#5 = true ∧ dispFl 0x3FFF#14 + State.reset.x 2#5 = 0xFFFFFFFC#32 ∧
    dispFd 0x1FFF#13 + State.reset.x 2#5 = 0xFFFFFFF8#32 ∧ dispFq 0x1FFF#13 + State.reset.x 2#5 = 0xFFFFFFF0#32 ∧
    retireFits State.reset.loader.s3 31#5 = true ∧ retireFits (some (entryOf .single 1#64)) 31#5 = true ∧
    retireFits (some (entryOf .double 1#64)) 2#5 = true := by decide

theorem witness_PixelStore :
    (∃ w, State.ps { State.reset with psr := 0#32 } = 0#2 ∧ w = 1) ∧
    (∃ w, State.ps { State.reset with psr := 0x00400000#32 } = 1#2 ∧ w = 2) ∧
    (∃ w, State.ps { State.reset with psr := 0x00800000#32 } = 2#2 ∧ w = 4) ∧ alignedFor .double 10#5 = true ∧
    Accessible 3 .write 0#32 { State.reset with psr := 0x00800000#32 } 0#32 { State.reset with psr := 0x00800000#32 } :=
  ⟨⟨1, by decide⟩, ⟨2, by decide⟩, ⟨4, by decide⟩, by decide, rfl, rfl, rfl⟩

theorem witness_RegisterTransfers : Executes State.reset false ∧ Executes State.reset true := ⟨⟨rfl, rfl⟩, rfl, rfl⟩

/-- NoSuchControlRegister: both ends of the range, and ld.c of register 31 to r1 fetched in a slot. -/
theorem witness_NoSuchControlRegister : 6 ≤ (6#5 : Reg).toNat ∧ 6 ≤ (31#5 : Reg).toNat ∧ State.reset.pendDslot = false ∧
    ∃ t, fetch 0x1004#32 { slotted 0x1000#32 0x33E10000#32 with pc := 0x1004#32 } = .done 0x33E10000#32 t ∧
      decodeWord 0x33E10000#32 = .instr (.ldc 31#5 1#5) := ⟨by decide, by decide, by decide, _, rfl, by decide⟩

theorem witness_SystemInstructions : State.reset.pendDslot = false ∧ (State.reset.setOF true).ovf = true ∧
    (State.reset.setOF true).pendDslot = false ∧ State.reset.ovf = false := by decide

/-- DelayedBranches, BranchOnLcc, IndirectBranchAndTrapReturn: a slot that completes (shl r0, r0, r0), after each kind of branch, with
either condition, and with and without a trap bit set. -/
theorem witness_slot_completes :
    (∃ t, SlotCompletes false (slotted 0x1000#32 0xA0000000#32) t ∧ t.psr.extractLsb' 8 5 = 0#5) ∧
    (∃ t, SlotCompletes true ((slotted 0x1000#32 0xA0000000#32).setX 1#5 0x1008#32) t) ∧
    (∃ t, SlotCompletes false (((slotted 0x1000#32 0xA0000000#32).setX 5#5 3#32).setLCC true) t) ∧
    (∃ t, SlotCompletes false { slotted 0x1000#32 0xA0000000#32 with psr := 0x1A4#32 } t ∧ t.psr.extractLsb' 8 5 ≠ 0#5) ∧
    (slotted 0x1000#32 0xA0000000#32).cc = false ∧ State.cc { slotted 0x1000#32 0xA0000000#32 with psr := 0x1A4#32 } = true :=
  ⟨⟨_, ⟨rfl, rfl⟩, by decide⟩, ⟨_, rfl, rfl⟩, ⟨_, rfl, rfl⟩, ⟨_, ⟨rfl, rfl⟩, by decide⟩, by decide, by decide⟩

/-- SlotRunsSameRule: an instruction that is no control transfer and one that is; fetched words that decode to an instruction, to none,
and to a form that is refused, with KNF clear and set; a fetch whose translation faults, and a misaligned one. -/
theorem witness_SlotRunsSameRule :
    ¬ TransfersControl (.adduR 1#5 2#5 3#5) ∧ TransfersControl (.br 0#26) ∧ TransfersControl .intovr ∧
    (∃ w t, fetch 0x1004#32 { slotted 0x1000#32 0xA0000000#32 with pc := 0x1004#32 } = .done w t ∧
      decodeWord w = .instr (.shlR 0#5 0#5 0#5)) ∧
    (∃ w t, fetch 0x1004#32 { slotted 0x1000#32 0x18000000#32 with pc := 0x1004#32 } = .done w t ∧ decodeWord w = .undefined) ∧
    (∃ w t, fetch 0x1004#32 { slotted 0x1000#32 0x48000422#32 with pc := 0x1004#32 } = .done w t ∧
      decodeWord w = .reserved .frcpPipelined false ∧ ((opFlags w).fp && t.knf) = false) ∧
    (∃ w t, fetch 0x1004#32 { slotted 0x1000#32 0x48000422#32 with pc := 0x1004#32, psr := 0x8000#32 } = .done w t ∧
      decodeWord w = .reserved .frcpPipelined false ∧ ((opFlags w).fp && t.knf) = true) ∧
    (let s := paged 0x00020007#32 0x00030006#32 0#32;
      s.pc.toNat % 4 = 0 ∧ ∃ u, translate s.pc .execute s = raise .iat .instructionAccess (.access s.pc .execute) u) ∧
    (at' 0x1002#32).pc.toNat % 4 ≠ 0 :=
  ⟨by simp [TransfersControl], .inl ⟨0#26, .inl rfl⟩, by simp [TransfersControl], ⟨_, _, rfl, by decide⟩, ⟨_, _, rfl, by decide⟩,
    ⟨_, _, rfl, by decide, by decide⟩, ⟨_, _, rfl, by decide, by decide⟩, ⟨by decide, _, rfl⟩, by decide⟩

/-- In the slot of call: fxfr to r1 suppressed by KNF, and pfle of the plain sense. -/
theorem test_slot_knf_fxfr :
    (match slotRun true { slotted 0x1000#32 0x48012040#32 with pc := 0x1004#32, psr := 0x8000#32 } with
      | .done _ t => t.psr == 0#32 && t.x 1#5 == 0#32
      | _ => false) = true := by decide

theorem test_pfle_plain_sense :
    steps 0x48A024B4#32
      { f45 0x3F800000#32 0x40000000#32 with params := { defaultParams with pfleSense := .plain } } (fun t => t.cc) = true := by
  decide

/-- A double-precision pfadd with an odd destination and an empty last stage goes on, and a double entry leaving it is refused. -/
theorem test_pfadd_odd_destination :
    steps 0x48C925B0#32 (fd46 0x3FF0000000000000#64 0x4000000000000000#64)
      (fun t => t.pc == 0x9004#32 && t.adder.s1 == some (entryOf .double 0x4008000000000000#64)) = true ∧
    (match retire (some (entryOf .double 1#64)) .double 9#5 State.reset with | .refused q => q == .misalignedFpRegister | _ => false) =
      true := by decide

/-- SlotTrap: a load at a misaligned address in the slot of br, bri and bnc.t, of bc.t with CC set, of call and calli, and of bla. -/
theorem witness_SlotTrap :
    let s := (slotted 0x1000#32 0x14450001#32).setX 2#5 2#32
    let fetchedAt := fun u : State => { u with bus := [readOf 0x1004#32 4 0x14450001#32], fetched := 0x14450001#32 }
    let raises := fun (link : Bool) (u : State) =>
      slotRun link { u with pc := 0x1004#32 } =
        raise .dat .unaligned (.access 2#32 .read) (fetchedAt { u with pc := 0x1004#32 })
    raises false s ∧ s.cc = false ∧ raises false { s with psr := 4#32 } ∧ State.cc { s with psr := 4#32 } = true ∧
      raises true (s.setX 1#5 0x1008#32) ∧ raises false ((s.setX 5#5 3#32).setLCC true) := ⟨rfl, rfl, rfl, rfl, rfl, rfl⟩

/-- RoundingDirections: values within, above and below the normal range; patterns of a normal, a denormal and a zero; a tiny result. -/
theorem witness_RoundingDirections :
    ((2 : ℚ) ^ (1 : Int) ≤ (3 : Nat) * 2 ^ (0 : Int) ∧ ((3 : Nat) : ℚ) * 2 ^ (0 : Int) < 2 ^ ((1 : Int) + 1)) ∧
    ((2 : ℚ) ^ (128 : Int) ≤ (1 : Nat) * 2 ^ (128 : Int) ∧ ((1 : Nat) : ℚ) * 2 ^ (128 : Int) < 2 ^ ((128 : Int) + 1)) ∧
    (roundFinite .single .nearest false 1 128).overflow = true ∧ (roundFinite .single .up true 3 0).overflow = false ∧
    fval .single 0x3F800000#64 = .fin false (2 ^ 23) (-23) ∧ fval .double 1#64 = .fin false 1 (-1074) ∧
    fval .single 0x80000000#64 = .fin true 0 (-149) ∧ (roundFinite .single .nearest true 1 (-150)).tiny = true := by
  refine ⟨⟨by norm_num, by norm_num⟩, ⟨by norm_num, ?_⟩, by decide, by decide, by decide, by decide, by decide, by decide⟩
  norm_num [zpow_add₀]

theorem witness_ExactArithmetic : (FVal.fin false 3 1).rat = some 6 ∧ (FVal.fin true 1 (-1)).rat = some (-1 / 2) ∧
    (exactAdd .down (.fin false 1 0) (.fin true 1 0)).rat = some 0 ∧ (exactSub .nearest (.fin true 0 0) (.fin false 0 0)).rat = some 0 := by
  refine ⟨by norm_num [FVal.rat], by norm_num [FVal.rat], ?_, ?_⟩
  · rw [show exactAdd .down (.fin false 1 0) (.fin true 1 0) = .fin true 0 0 from by decide]; norm_num [FVal.rat]
  · rw [show exactSub .nearest (.fin true 0 0) (.fin false 0 0) = .fin true 0 0 from by decide]; norm_num [FVal.rat]

theorem witness_FpCheckStatusAndTraps : State.fte { State.reset with fsr := 0x20#32 } = true ∧ State.reset.fte = false ∧
    (let r := State.checked { State.reset with fsr := 0x20#32 } .single (.fin false 1 200); r.overflow || r.tiny) = true ∧
    (let r := State.checked { State.reset with fsr := 0x20#32 } .single (.fin false 1 (-130)); r.overflow || r.tiny) = true ∧
    (let r := State.checked { State.reset with fsr := 0x22#32 } .single (.fin false (2 ^ 24 + 1) 0); r.inexact && !r.tiny) = true := by
  decide

/-- The operands f4 and f5 as single-precision sources, f6 the destination. -/
def ss456 : Fp3 := { src1 := 4#5, src2 := 5#5, dest := 6#5, s := .single, r := .single, d := false }

/-- The operands f4:f5 and f6:f7 as double-precision sources, f8:f9 the destination. -/
def dd468 : Fp3 := { src1 := 4#5, src2 := 6#5, dest := 8#5, s := .double, r := .double, d := false }

/-- ScalarArithmetic, PipelinedArithmetic: traps off; and traps on, 1 + 2 and 1 × 2, which raise nothing. -/
theorem witness_arithmetic_passes :
    SourcesReady (f45 0x3F800000#32 0x40000000#32) ss456 ∧ SourcesReady (fd46 1#64 2#64) dd468 ∧
    alignedFor ss456.r ss456.dest = true ∧ alignedFor dd468.r dd468.dest = true ∧ pairArith ss456.s ss456.r = true ∧
    pairArith .single .double = true ∧ pairArith dd468.s dd468.r = true ∧
    FpPasses State.reset .single true .nan ∧
    (let s := { f45 0x3F800000#32 0x40000000#32 with fsr := 0x22#32 };
      FpPasses s .single (exceptional s ss456) (exactAdd s.rm (value1 s ss456) (value2 s ss456)) ∧
      FpPasses s .single (exceptional s ss456) (exactSub s.rm (value1 s ss456) (value2 s ss456)) ∧
      FpPasses s .single (exceptional s ss456) (exactMul (value1 s ss456) (value2 s ss456))) ∧
    retireFits State.reset.adder.s3 9#5 = true ∧ retireFits (some (entryOf .single 1#64)) 9#5 = true := by
  refine ⟨⟨⟨rfl, rfl⟩, rfl, rfl⟩, ⟨⟨rfl, rfl⟩, rfl, rfl⟩, rfl, rfl, rfl, rfl, rfl, .inl (by decide), ?_, by decide, by decide⟩
  exact ⟨.inr (by decide), .inr (by decide), .inr (by decide)⟩

/-- ArithmeticTraps: a NaN source, and a product, a sum and a difference that overflow, with traps enabled; the same of doubles; a move that
overflows; an inexact conversion; and dual operations whose multiplier and whose adder trap. -/
theorem witness_ArithmeticTraps :
    (let s := { f45 0x7FC00000#32 0#32 with fsr := 0x20#32 };
      SourcesReady s ss456 ∧ s.fte = true ∧ s.pendDslot = false ∧ exceptional s ss456 = true) ∧
    (let s := { f45 0x7F7FFFFF#32 0x7F7FFFFF#32 with fsr := 0x20#32 };
      SourcesReady s ss456 ∧ exceptional s ss456 = false ∧
      resultTraps s.ti (s.checked .single (exactAdd s.rm (value1 s ss456) (value2 s ss456))) = true ∧
      resultTraps s.ti (s.checked .single (exactMul (value1 s ss456) (value2 s ss456))) = true) ∧
    (let s := { f45 0x7F7FFFFF#32 0xFF7FFFFF#32 with fsr := 0x20#32 };
      resultTraps s.ti (s.checked .single (exactSub s.rm (value1 s ss456) (value2 s ss456))) = true) ∧
    (let s := { fd46 0x7FE0000000000000#64 0x7FE0000000000000#64 with fsr := 0x20#32 };
      SourcesReady s dd468 ∧ exceptional s dd468 = false ∧
      resultTraps s.ti (s.checked .double (exactMul (value1 s dd468) (value2 s dd468))) = true ∧
      sourceException .double (s.fr .double 4#5) = false ∧
      resultTraps s.ti (s.checked .single (fval .double (s.fr .double 4#5))) = true) ∧
    (let s := { fd46 0x4004000000000000#64 0#64 with fsr := 0x22#32 };
      Executes s false ∧ s.ti = true ∧ s.fte = true ∧ pairFix .double .double = true ∧
      fval .double (s.fr .double 4#5) = .fin false 0x14000000000000 (-51) ∧
      roundToInt .nearest false 0x14000000000000 (-51) = (2, true)) := by
  unfold SourcesReady Executes; decide

/-- Type 9 has the sources on the multiplier and the last stages on the adder: each unit in turn has a source that is a NaN. -/
theorem witness_ArithmeticTraps_dual :
    (let s := { f45 0x7FC00000#32 0#32 with fsr := 0x20#32 };
      let ops := dualOperands 9#4 ss456 s;
      ops.fits .single .single = true ∧ unitResult .multiplier mulOp .single .single ops.m1 ops.m2 s =
        raise .ft .fpSource .nothing { s with fsr := 0x120#32, freeCount := 0 }) ∧
    let nan := some (entryOf .single 0x7FC00000#64)
    let s := { f45 0x3F800000#32 0x3F800000#32 with
      fsr := 0x20#32, adder := { s1 := none, s2 := none, s3 := nan }, multiplier := { s1 := none, s2 := none, s3 := nan } }
    let ops := dualOperands 9#4 ss456 s
    ops.fits .single .single = true ∧ ∃ mres s1, unitResult .multiplier mulOp .single .single ops.m1 ops.m2 s = .done mres s1 ∧
      unitResult .adder exactAdd .single .single ops.a1 ops.a2 s1 =
        raise .ft .fpSource .nothing { s with fsr := 0x120#32, freeCount := 0 } :=
  ⟨⟨by decide, rfl⟩, by decide, _, _, rfl, rfl⟩

theorem witness_MultiplyLow : Executes State.reset false ∧ alignedFor .double 4#5 = true ∧ alignedFor .double 30#5 = true :=
  ⟨⟨rfl, rfl⟩, by decide, by decide⟩

/-- Approximations: one, zero and a negative number. -/
theorem witness_Approximations :
    (fval .single 0x3F800000#64).isZero = false ∧ (fval .single 0#64).isZero = true ∧
    (fval .single 0xBF800000#64).isNegative = true ∧
    ((fval .single 0x3F800000#64).isZero || (fval .single 0x3F800000#64).isNegative) = false ∧
    State.reset.fte = false ∧ State.fte { State.reset with fsr := 0x20#32 } = true ∧ pairArith .single .single = true := by decide

/-- Conversions: the ends of the range, −2^31 and 2^31 − 1, and 5/2, which is inexact. -/
theorem witness_Conversions :
    pairFix .double .double = true ∧
    (∃ m e, fval .double 0xC1E0000000000000#64 = .fin true m e ∧ (roundToInt .nearest true m e).1 = -2 ^ 31) ∧
    (∃ m e, fval .double 0x41DFFFFFFFC00000#64 = .fin false m e ∧ (roundToInt .zero false m e).1 = 2 ^ 31 - 1) ∧
    ∃ m e, fval .double 0x4004000000000000#64 = .fin false m e ∧ (roundToInt .nearest false m e) = (2, true) :=
  ⟨by decide, ⟨_, _, rfl, by decide⟩, ⟨_, _, rfl, by decide⟩, ⟨_, _, rfl, by decide⟩⟩

/-- ConversionsOutOfRange: 2^31, −2^31 − 1 and a NaN. -/
theorem witness_ConversionsOutOfRange :
    (∃ m e, fval .double 0x41E0000000000000#64 = .fin false m e ∧ 2 ^ 31 ≤ (roundToInt .nearest false m e).1) ∧
    (∃ m e, fval .double 0xC1E0000000200000#64 = .fin true m e ∧ (roundToInt .zero true m e).1 < -2 ^ 31) ∧
    fval .double 0x7FF8000000000000#64 = .nan :=
  ⟨⟨_, _, rfl, by decide⟩, ⟨_, _, rfl, by decide⟩, by decide⟩

theorem witness_AdderMoves :
    let o : Fp2 := { src := 4#5, dest := 6#5, s := .single, r := .double, d := false }
    let s := { f45 0x3F800000#32 0#32 with fsr := 0x20#32 }
    Executes s o.d ∧ alignedFor o.s o.src = true ∧ alignedFor o.r o.dest = true ∧
      FpPasses s o.r (sourceException o.s (s.fr o.s o.src)) (fval o.s (s.fr o.s o.src)) ∧
      retireFits s.adder.s3 o.dest = true :=
  ⟨⟨rfl, rfl⟩, by decide, by decide, .inr (by decide), by decide⟩

/-- Compares: ordered operands with traps enabled; unordered ones with traps disabled and enabled. -/
theorem witness_Compares :
    ((fval .single 0x3F800000#64).isNan || (fval .single 0x40000000#64).isNan) = false ∧
    (fval .single 0x7FC00000#64).isNan = true ∧ State.reset.fte = false ∧
    State.fte { State.reset with fsr := 0x20#32 } = true ∧ retireFits State.reset.adder.s3 1#5 = true := by decide

theorem witness_DualOperandsAndUnits : ofEntry State.reset.adder.s3 = .empty ∧
    ofEntry (some (entryOf .single 1#64)) = .value 1#64 (some .single) ∧ State.reset.fte = false := ⟨rfl, rfl, by decide⟩

/-- DualOperations: pfam of type 2 with both last stages full, both units computing without a trap. -/
theorem witness_DualOperations :
    let s : State := { f45 0x40000000#32 0x40400000#32 with
      adder := { s1 := none, s2 := none, s3 := some (entryOf .single 0x3F800000#64) }
      multiplier := { s1 := none, s2 := none, s3 := some (entryOf .single 0x3F800000#64) } }
    let ops := dualOperands 2#4 ss456 s
    Executes s ss456.d ∧ pairArith ss456.s ss456.r = true ∧ ops.fits .single .single = true ∧
      ∃ mres s1 ares s2, unitResult .multiplier mulOp .single .single ops.m1 ops.m2 s = .done mres s1 ∧
        unitResult .adder exactAdd .single .single ops.a1 ops.a2 s1 = .done ares s2 ∧
        (∃ diff s3, unitResult .adder exactSub .single .single ops.a1 ops.a2 s1 = .done diff s3) ∧
        retireFits s.adder.s3 6#5 = true ∧ retireFits s.multiplier.s3 6#5 = true :=
  ⟨⟨rfl, rfl⟩, by decide, by decide, _, _, _, _, rfl, rfl, ⟨_, _, rfl⟩, by decide, by decide⟩

/-- GraphicsResults: aligned doubles, the three pixel sizes, a result and a mask of both Z checks. -/
theorem witness_GraphicsResults :
    (fd46 5#64 0x0000000600000003#64).knf = false ∧ (fd46 5#64 0x0000000600000003#64).admits dd468.d = true ∧ ss456.s = .single ∧ ss456.r = .single ∧ dd468.s = .double ∧ alignedFor .double dd468.src2 = true ∧
    State.ps { State.reset with psr := 0#32 } ≠ 3#2 ∧ State.ps { State.reset with psr := 0x00800000#32 } ≠ 3#2 ∧
    (let low := fun i n => decide ((5#64).toNat / 2 ^ (n * i) % 2 ^ n < (0x0000000600000003#64).toNat / 2 ^ (n * i) % 2 ^ n);
      (∀ i, i < 2 → (3#64).extractLsb' (32 * i) 32 =
        if low i 32 then (5#64).extractLsb' (32 * i) 32 else (0x0000000600000003#64).extractLsb' (32 * i) 32) ∧
      (∀ i, i < 6 → (0x80#8).getLsbD i = (0#8).getLsbD (i + 2)) ∧ (∀ i, i < 2 → (0x80#8).getLsbD (i + 6) = low i 32) ∧
      (∀ i, i < 4 → (3#64).extractLsb' (16 * i) 16 =
        if low i 16 then (5#64).extractLsb' (16 * i) 16 else (0x0000000600000003#64).extractLsb' (16 * i) 16) ∧
      (∀ i, i < 4 → (0x40#8).getLsbD i = (0#8).getLsbD (i + 4)) ∧ ∀ i, i < 4 → (0x40#8).getLsbD (i + 4) = low i 16) := by
  decide

/-- KillNextFloating: an instruction with KNF set, and a fetched word of a form that no instruction has. -/
theorem witness_KillNextFloating : (opFlags (encode (.fadd ss456))).fp = true ∧
    State.knf { State.reset with psr := 0x8000#32 } = true ∧
    (let s := { putWord (at' 0x1000#32) 0x1000#32 0x48000422#32 with psr := 0x8000#32 };
      s.held = false ∧ ∃ t, fetch s.pc s = .done 0x48000422#32 t ∧ decodeWord 0x48000422#32 = .reserved .frcpPipelined false ∧
        (opFlags 0x48000422#32).fp = true ∧ t.knf = true) :=
  ⟨by decide, by decide, by decide, _, rfl, by decide, by decide, by decide⟩

/-- DataCheckTraps: misaligned addresses of each size in both address forms, an enabled breakpoint at an aligned one, and a translation that
faults at an aligned one. -/
theorem witness_DataCheckTraps :
    ((r12 0#32 1#32).x 1#5 + (r12 0#32 1#32).x 2#5).toNat % 2 ^ 1 ≠ 0 ∧
    ((r12 0#32 2#32).x 1#5 + (r12 0#32 2#32).x 2#5).toNat % 2 ^ 2 ≠ 0 ∧
    ((r12 0#32 8#32).x 1#5 + (r12 0#32 8#32).x 2#5).toNat % 2 ^ 4 ≠ 0 ∧ alignedQuad 4#5 = true ∧ alignedFor .double 2#5 = true ∧
    (dispFd 1#13 + (r12 0#32 4#32).x 2#5).toNat % 2 ^ 3 ≠ 0 ∧ State.reset.ps ≠ 3#2 ∧
    (let s := { r12 0#32 4#32 with db := 6#32, psr := 3#32 };
      s.breakRead = true ∧ s.breakWrite = true ∧ (s.x 1#5 + s.x 2#5).toNat % 2 ^ 2 = 0 ∧
        (s.x 1#5 + s.x 2#5).toNat / 2 ^ 2 = s.db.toNat / 2 ^ 2 ∧ (dispWord 0#15 + s.x 2#5).toNat / 2 ^ 2 = s.db.toNat / 2 ^ 2) ∧
    (let s := { r12 2#32 4#32 with db := 6#32, psr := 1#32 }; (s.x 1#5 + s.x 2#5).toNat / 2 ^ 0 = s.db.toNat / 2 ^ 0) ∧
    (let s := paged 0x00020006#32 0x00030007#32 0#32;
      s.breakRead = false ∧ (0x00401234#32).toNat % 2 ^ 2 = 0 ∧
        translate 0x00401234#32 .read s = raise .dat .translation (.access 0x00401234#32 .read)
          { s with mem := s.mem, bus := [readOf (s.pdeAddr 0x00401234#32) 4 0x00020006#32] }) := by
  refine ⟨by decide, by decide, by decide, by decide, by decide, by decide, by decide, by decide, by decide, by decide, by decide, rfl⟩

/-- TranslationSucceeds: both entries pass; for a write the page is dirty; the two entries are different words. -/
theorem witness_TranslationSucceeds :
    let s := paged 0x00020007#32 0x00030047#32 0x40#32
    s.mem.wf = true ∧ s.ate = true ∧ s.entryPasses .write (s.mem.word false (s.pdeAddr 0x00401234#32)) = true ∧
      s.entryPasses .write (s.mem.word false (pteAddr 0x00020007#32 0x00401234#32)) = true ∧
      entryDirty (s.mem.word false (pteAddr 0x00020007#32 0x00401234#32)) = true ∧
      s.pdeAddr 0x00401234#32 ≠ pteAddr 0x00020007#32 0x00401234#32 ∧ State.reset.ate = false := by
  decide

/-- TranslationFaults: a directory entry not present, a page entry not present, a clean page. -/
theorem witness_TranslationFaults :
    (let s := paged 0x00020006#32 0x00030007#32 0#32;
      s.ate = true ∧ s.mem.wf = true ∧ s.entryPasses .read (s.mem.word false (s.pdeAddr 0x00401234#32)) = false) ∧
    (let s := paged 0x00020007#32 0x00030006#32 0#32;
      s.entryPasses .read (s.mem.word false (s.pdeAddr 0x00401234#32)) = true ∧
      s.entryPasses .read (s.mem.word false (pteAddr 0x00020007#32 0x00401234#32)) = false) ∧
    (let s := paged 0x00020007#32 0x00030007#32 0#32;
      s.entryPasses .write (s.mem.word false (s.pdeAddr 0x00401234#32)) = true ∧
      s.entryPasses .write (s.mem.word false (pteAddr 0x00020007#32 0x00401234#32)) = true ∧
      entryDirty (s.mem.word false (pteAddr 0x00020007#32 0x00401234#32)) = false) := by
  decide

theorem witness_EndOfStep :
    State.reset.pendSync = false ∧ State.reset.pendExt = false ∧ (State.reset.intPin && State.reset.im) = false ∧
    (let s := { State.reset with intPin := true, psr := 0x10#32 }; (s.intPin && s.im) = true ∧ s.pendSync = false) ∧
    State.reset.pendDslot = false := by
  decide

/-- InvariantKept: the step from reset. -/
theorem witness_InvariantKept : State.reset.Inv ∧ ∃ t, step State.reset = .next t := ⟨⟨rfl, rfl⟩, _, rfl⟩

/-- UserModeConfined: user-mode steps that stay in user mode (addu) and that enter supervisor mode (trap). -/
theorem witness_UserModeConfined :
    (let s := putWord { at' 0x1000#32 with psr := 0x40#32 } 0x1000#32 0x80430800#32;
      s.Inv ∧ s.user = true ∧ s.trapBits = 0#5 ∧ ∃ t, step s = .next t ∧ t.user = true) ∧
    (let s := putWord { at' 0x1000#32 with psr := 0x40#32 } 0x1000#32 0x44000000#32;
      s.Inv ∧ s.user = true ∧ s.trapBits = 0#5 ∧ ∃ t, step s = .next t ∧ t.user = false) :=
  ⟨⟨⟨by decide, by decide⟩, by decide, by decide, _, rfl, by decide⟩, ⟨⟨by decide, by decide⟩, by decide, by decide, _, rfl, by decide⟩⟩

end Sys2Proof.Tests
end

/-! # The register file, the invariant, and the confinement of user mode (spec/10_state.md) -/

namespace Sys2Proof.Machine

/-! ## Registers and reset

The register file, and the invariant at reset (spec/10_state.md R21 to R27, R30 to R37, R52, R55). -/

/-- An even register other than f0 is not hard-wired: f0 and f1 are the only pair that is (R26). -/
theorem hardF_of_even {i : Reg} (he : i.getLsbD 0 = false) (h0 : i ≠ 0#5) : hardF i = false := by
  revert i; decide

/-- The hard-wired registers are f0 and f1 (R26). -/
theorem hardF_of_ne {i : Reg} (h0 : i ≠ 0#5) (h1 : i ≠ 1#5) : hardF i = false := by
  revert i; decide

/-- Registers outside the pair are kept by a double-precision write (R25). -/
theorem State.f_setFd_ne (s : State) {i j : Reg} (v : Dword) (h : j ≠ i) (h1 : j ≠ i + 1#5) : (s.setFd i v).f j = s.f j :=
  (State.f_setF_ne _ _ _ _ h1).trans (State.f_setF_ne _ _ _ _ h)

/-- The even register of a pair takes the low word (R24). -/
theorem State.f_setFd_low (s : State) {i : Reg} (v : Dword) (hi : hardF i = false) :
    (s.setFd i v).f i = v.extractLsb' 0 32 := by
  unfold State.setFd
  rw [State.f_setPair, hi]
  simp [reg_succ_ne i]

/-- The odd register of a pair takes the high word (R24). -/
theorem State.f_setFd_high (s : State) {i : Reg} (v : Dword) (he : i.getLsbD 0 = false) (hi : hardF i = false) :
    (s.setFd i v).f (i + 1#5) = v.extractLsb' 32 32 := by
  unfold State.setFd
  rw [State.f_setPair, hardF_succ i he, hi]
  simp

/-- The pair f0:f1 reads as zero (R26). -/
@[simp] theorem State.fd_zero (s : State) : s.fd 0#5 = 0#64 := by
  have h0 : s.f 0#5 = 0#32 := rfl
  have h1 : s.f (0#5 + 1#5) = 0#32 := rfl
  unfold State.fd
  rw [h0, h1]; rfl

/-- Settles O1: the hard-wired registers by computation, the others by the read-after-write lemmas of the register file. -/
theorem registerFile : Obligations.RegisterFile := by
  intro s
  refine ⟨fun v => ⟨rfl, rfl, rfl, rfl, rfl, rfl, s.fd_zero⟩, fun i j => ⟨fun v => ⟨fun h0 => ?_, fun hj => ?_⟩,
    fun v => ⟨fun h0 h1 => ?_, fun hj => ?_⟩, fun he v => ⟨fun hj hj1 => ?_, fun h0 => ?_⟩⟩⟩
  · rw [State.x_setX_self, if_neg h0]
  · exact State.x_setX_ne s i j v hj
  · rw [State.f_setF, hardF_of_ne h0 h1]; simp
  · exact State.f_setF_ne s i j v hj
  · exact State.f_setFd_ne s v hj hj1
  · have hi := hardF_of_even he h0
    refine ⟨?_, State.f_setFd_low s v hi, State.f_setFd_high s v he hi⟩
    rw [State.fd_setFd s i v he, hi]; rfl

/-- Settles O58: every pipeline is empty, every control register is zero and nothing is pending at reset. -/
theorem invariantAtReset : Obligations.InvariantAtReset := ⟨rfl, rfl⟩

/-! ## What a rule may leave

What an instruction's rule may do to the state, in the two respects the invariant and the confinement of user mode speak of. A rule
that completes leaves the invariant as `KeepsD` says and, when the step began in user mode with no trap bit set, only the fields open to
user mode changed (R285); a rule that traps leaves `KeepsT`, and one trap bit besides (R432, R433). -/

/-! ### The bits a user-mode rule writes -/

/-- The psr bits a rule may write in user mode: CC, LCC, KNF, SC, PS and PM (R30, R133, R285). -/
def userBit (k : Nat) : Prop := k = 2 ∨ k = 3 ∨ k = 15 ∨ 17 ≤ k

/-- Those and the five trap bits (R433). -/
def userOrTrapBit (k : Nat) : Prop := userBit k ∨ 8 ≤ k ∧ k ≤ 12

/-- Nothing of the supervisor's changes: db, dirbase but BL, epsr but OF, psr but some bits (R31, R34, R285); and no parameter (R9). -/
structure UserKept (changed : Nat → Prop) (s u : State) : Prop where
  db : u.db = s.db
  dirbase : DirbaseKeptBut (fun k => k = 4) s u
  epsr : EpsrKeptBut (fun k => k = 24) s u
  psr : PsrKeptBut changed s u
  params : u.params = s.params

theorem UserKept.refl (changed : Nat → Prop) (s : State) : UserKept changed s s :=
  ⟨rfl, fun _ _ => rfl, fun _ _ => rfl, fun _ _ => rfl, rfl⟩

theorem UserKept.trans {changed : Nat → Prop} {s u v : State} (h : UserKept changed s u) (h' : UserKept changed u v) :
    UserKept changed s v :=
  ⟨h'.db.trans h.db, fun k hk => (h'.dirbase k hk).trans (h.dirbase k hk), fun k hk => (h'.epsr k hk).trans (h.epsr k hk),
    fun k hk => (h'.psr k hk).trans (h.psr k hk), h'.params.trans h.params⟩

theorem UserKept.orTrap {s u : State} (h : UserKept userBit s u) : UserKept userOrTrapBit s u :=
  ⟨h.db, h.dirbase, h.epsr, fun k hk => h.psr k fun hu => hk (.inl hu), h.params⟩

/-- U is no bit of user mode's, nor a trap bit. -/
theorem UserKept.user {s u : State} (h : UserKept userOrTrapBit s u) : u.user = s.user :=
  h.psr 6 (by simp [userOrTrapBit, userBit])

/-- No trap bit is a bit of user mode's. -/
theorem UserKept.trapBits {s u : State} (h : UserKept userBit s u) : u.trapBits = s.trapBits := by
  apply BitVec.eq_of_getLsbD_eq
  intro j hj
  unfold State.trapBits
  rw [BitVec.getLsbD_extractLsb', BitVec.getLsbD_extractLsb', h.psr (8 + j) (by unfold userBit; omega)]

/-- One trap bit set makes the field not zero (R433). -/
theorem trapBits_ne_zero {u : State} {k : Nat} (h8 : 8 ≤ k) (h12 : k ≤ 12) (h : u.psr.getLsbD k = true) : u.trapBits ≠ 0#5 := by
  intro h0
  have hbit : u.trapBits.getLsbD (k - 8) = true := by
    unfold State.trapBits
    rw [BitVec.getLsbD_extractLsb', show 8 + (k - 8) = k by omega, h]
    simp; omega
  rw [h0] at hbit
  simp at hbit

/-- The bit of a trap class is a trap bit (R433). -/
theorem TrapClass.bit_range (c : TrapClass) : 8 ≤ c.bit ∧ c.bit ≤ 12 := by cases c <;> decide

/-! ### Operations that write no control register but fsr -/

/-- The control registers but fir and fsr are as before, and the parameters. -/
structure SameControl (s u : State) : Prop where
  db : u.db = s.db
  dirbase : u.dirbase = s.dirbase
  epsr : u.epsr = s.epsr
  psr : u.psr = s.psr
  params : u.params = s.params

theorem SameControl.refl (s : State) : SameControl s s := ⟨rfl, rfl, rfl, rfl, rfl⟩

theorem SameControl.trans {s u v : State} (h : SameControl s u) (h' : SameControl u v) : SameControl s v :=
  ⟨h'.db.trans h.db, h'.dirbase.trans h.dirbase, h'.epsr.trans h.epsr, h'.psr.trans h.psr, h'.params.trans h.params⟩

theorem SameControl.userKept {s u : State} (h : SameControl s u) : UserKept userBit s u :=
  ⟨h.db, fun k _ => by rw [h.dirbase], fun k _ => by rw [h.epsr], fun k _ => by rw [h.psr], h.params⟩

/-- A trap recorded at a state with the same control registers (R432). -/
def TrapRecorded (s u : State) : Prop :=
  ∃ w c reason detail, SameControl s w ∧ u = w.recordTrap c reason detail

/-- A part of an instruction that writes none of those registers but to record its trap. -/
abbrev KeepsControl {α : Type} (s : State) (x : Exec α) : Prop := x.Sat (fun _ => SameControl s) (TrapRecorded s)

theorem raise_control {α : Type} (c : TrapClass) (r : TrapReason) (d : TrapDetail) {s w : State} (h : SameControl s w) :
    KeepsControl s (raise c r d w : Exec α) := ⟨w, c, r, d, h, rfl⟩

theorem raiseTranslation_control {α : Type} (va : Word) (kind : AccessKind) {s w : State} (h : SameControl s w) :
    KeepsControl s (raiseTranslation va kind w : Exec α) := by
  cases kind <;> exact raise_control _ _ _ h

theorem sameControl_record {s w : State} (a : BusAccess) (h : SameControl s w) : SameControl s (w.record a) :=
  h.trans ⟨rfl, rfl, rfl, rfl, rfl⟩

theorem sameControl_busWrite {s w : State} (n : BusSize) (b : Bool) (pa v : Word) (h : SameControl s w) :
    SameControl s (busWrite n b pa v w) := h.trans ⟨rfl, rfl, rfl, rfl, rfl⟩

theorem busRead_control (n : BusSize) (b : Bool) (pa : Word) {s w : State} (h : SameControl s w) :
    KeepsControl s (busRead n b pa w) := sameControl_record _ h

theorem walk_control (va : Word) (kind : AccessKind) {s w : State} (h : SameControl s w) : KeepsControl s (walk va kind w) := by
  unfold walk
  refine Exec.Sat.bind (busRead_control _ _ _ h) fun pde s1 h1 => ?_
  split
  · exact raiseTranslation_control _ _ h1
  · refine Exec.Sat.bind (busRead_control _ _ _ h1) fun pte s2 h2 => ?_
    have h4 := sameControl_busWrite .word w.params.fetchBigEndian (pteAddr pde va) (pte ||| 0x20#32)
      (sameControl_busWrite .word w.params.fetchBigEndian (w.pdeAddr va) (pde ||| 0x20#32) h2)
    split
    · exact raiseTranslation_control _ _ h2
    · dsimp only
      split
      · exact raiseTranslation_control _ _ h4
      · exact h4

theorem translate_control (va : Word) (kind : AccessKind) {s w : State} (h : SameControl s w) :
    KeepsControl s (translate va kind w) := by
  unfold translate; split
  · exact walk_control _ _ h
  · exact h

theorem dataAddress_control (k : Nat) (kind : AccessKind) (va : Word) {s w : State} (h : SameControl s w) :
    KeepsControl s (dataAddress k kind va w) := by
  unfold dataAddress
  split
  · exact raise_control _ _ _ h
  · split
    · exact raise_control _ _ _ h
    · exact translate_control _ _ h

theorem dataRead_control (n : BusSize) (va : Word) {s w : State} (h : SameControl s w) : KeepsControl s (dataRead n va w) :=
  Exec.Sat.bind (dataAddress_control _ _ _ h) fun _ _ h1 => busRead_control _ _ _ h1

theorem busRead64_control (pa : Word) {s w : State} (h : SameControl s w) : KeepsControl s (busRead64 pa w) :=
  Exec.Sat.bind (busRead_control _ _ _ h) fun _ _ h1 => Exec.Sat.bind (busRead_control _ _ _ h1) fun _ _ h2 => h2

theorem sameControl_busWrite64 {s w : State} (pa : Word) (v : Dword) (h : SameControl s w) :
    SameControl s (busWrite64 pa v w) := h.trans ⟨rfl, rfl, rfl, rfl, rfl⟩

theorem dataRead64_control (va : Word) {s w : State} (h : SameControl s w) : KeepsControl s (dataRead64 va w) :=
  Exec.Sat.bind (dataAddress_control _ _ _ h) fun _ _ h1 => busRead64_control _ h1

theorem dataRead128_control (va : Word) {s w : State} (h : SameControl s w) : KeepsControl s (dataRead128 va w) :=
  Exec.Sat.bind (dataAddress_control _ _ _ h) fun _ _ h1 =>
    Exec.Sat.bind (busRead64_control _ h1) fun _ _ h2 => Exec.Sat.bind (busRead64_control _ h2) fun _ _ h3 => h3

theorem dataWrite_control (n : BusSize) (va v : Word) {s w : State} (h : SameControl s w) :
    KeepsControl s (dataWrite n va v w) :=
  Exec.Sat.bind (dataAddress_control _ _ _ h) fun _ _ h1 => sameControl_busWrite _ _ _ _ h1

theorem dataWrite64_control (va : Word) (v : Dword) {s w : State} (h : SameControl s w) :
    KeepsControl s (dataWrite64 va v w) :=
  Exec.Sat.bind (dataAddress_control _ _ _ h) fun _ _ h1 => sameControl_busWrite64 _ _ h1

theorem dataWrite128_control (va : Word) (v v' : Dword) {s w : State} (h : SameControl s w) :
    KeepsControl s (dataWrite128 va v v' w) :=
  Exec.Sat.bind (dataAddress_control _ _ _ h) fun _ _ h1 => sameControl_busWrite64 _ _ (sameControl_busWrite64 _ _ h1)

theorem fetch_control (va : Word) {s w : State} (h : SameControl s w) : KeepsControl s (fetch va w) := by
  unfold fetch; split
  · trivial
  · exact Exec.Sat.bind (translate_control _ _ h) fun _ _ h1 =>
      Exec.Sat.bind (busRead_control _ _ _ h1) fun _ _ h2 => h2.trans ⟨rfl, rfl, rfl, rfl, rfl⟩

theorem sameControl_afterNan (s : State) (x : FVal) : SameControl s (s.afterNan x) := by
  unfold State.afterNan; split <;> exact ⟨rfl, rfl, rfl, rfl, rfl⟩

theorem fpCheck_control (unit : FpUnit) (x : FVal) (p : Prec) (se : Bool) (s : State) :
    KeepsControl s (fpCheck unit x p se s) := by
  cases se with
  | true =>
    rw [fpCheck_source]
    split
    · exact raise_control _ _ _ ⟨rfl, rfl, rfl, rfl, rfl⟩
    · have hsrc : SameControl s { s.setSE true with fsr := setUnitBits unit false false false (s.setSE true).fsr } :=
        ⟨rfl, rfl, rfl, rfl, rfl⟩
      exact hsrc.trans (sameControl_afterNan _ x)
  | false =>
    rw [fpCheck_result]
    split
    · exact raise_control _ _ _ ⟨rfl, rfl, rfl, rfl, rfl⟩
    · exact (⟨rfl, rfl, rfl, rfl, rfl⟩ : SameControl s ((s.setSE false).recordResult unit _))

theorem sameControl_fw (s : State) (p : Prec) (i : Reg) (v : Dword) : SameControl s (s.fw p i v) := by
  cases p <;> exact ⟨rfl, rfl, rfl, rfl, rfl⟩

theorem sameControl_retireEmpty (s : State) (r : Prec) (i : Reg) : SameControl s (s.retireEmpty r i) := by
  unfold State.retireEmpty; split
  · exact .refl s
  · cases r <;> exact ⟨rfl, rfl, rfl, rfl, rfl⟩

theorem retire_control (e : Option Entry) (r : Prec) (dest : Reg) {s w : State} (h : SameControl s w) :
    KeepsControl s (retire e r dest w) := by
  unfold retire
  split
  · split
    · exact h.trans (sameControl_fw _ _ _ _)
    · trivial
  · exact h.trans (sameControl_retireEmpty _ _ _)

/-! ### Steady states -/

/-- What a rule may complete with, when the step began at `s`: the invariant (as `KeepsD` has it), and, from user mode with no trap bit
set, only the fields of user mode changed. -/
structure Steady (s u : State) : Prop where
  keeps : KeepsD () u
  kept : s.user = true → s.trapBits = 0#5 → UserKept userBit s u

/-- What a rule may leave when it traps, when the step began at `s`: the invariant's lasting part and a trap pending, and, from user mode
with no trap bit set, only the fields of user mode and trap bits changed, one of these set. -/
structure SteadyTrap (s u : State) : Prop where
  keeps : KeepsT u
  kept : s.user = true → s.trapBits = 0#5 → UserKept userOrTrapBit s u ∧ u.trapBits ≠ 0#5

/-- A part of an instruction, run in a step that began at `s`, completes or traps in one of these states. -/
abbrev StaysSteady {α : Type} (s : State) (x : Exec α) : Prop := x.Sat (fun _ => Steady s) (SteadyTrap s)

theorem Steady.refl {s : State} (h : s.Inv) : Steady s s := ⟨h, fun _ _ => .refl _ s⟩

/-- A step on from a steady state, where user mode stays within its fields. -/
theorem Steady.step {s u v : State} (h : Steady s u) (hk : KeepsD () v)
    (hv : u.user = true → UserKept userBit u v) : Steady s v :=
  ⟨hk, fun hu ht => (h.kept hu ht).trans (hv ((h.kept hu ht).orTrap.user.trans hu))⟩

/-- The same where no control register is written but fir and fsr. -/
theorem Steady.same {s u v : State} (h : Steady s u) (hs : v.sound = u.sound) (hq : v.quiet = u.quiet) (hc : SameControl u v) :
    Steady s v := h.step ⟨hs.trans h.keeps.1, hq.trans h.keeps.2⟩ fun _ => hc.userKept

/-- A trap recorded at a steady state. -/
theorem Steady.trap {s u v : State} (h : Steady s u) (hk : KeepsT v) (ht : TrapRecorded u v) : SteadyTrap s v := by
  refine ⟨hk, fun hu hb => ?_⟩
  obtain ⟨w, c, reason, detail, hw, rfl⟩ := ht
  have hsw : UserKept userBit s w := (h.kept hu hb).trans hw.userKept
  have hset : UserKept userOrTrapBit w (w.recordTrap c reason detail) :=
    ⟨rfl, fun _ _ => rfl, fun _ _ => rfl, fun k hk => getLsbD_setBit_ne _ _ _ _ (by have := c.bit_range; omega)
      (by rintro rfl; exact hk (.inr c.bit_range)), rfl⟩
  exact ⟨hsw.orTrap.trans hset, trapBits_ne_zero c.bit_range.1 c.bit_range.2
    (getLsbD_setBit_self _ _ _ (by have := c.bit_range; omega))⟩

/-- An operation that keeps the invariant and writes no control register but fsr stays steady. -/
theorem Steady.of_control {α : Type} {s u : State} {x : Exec α} (h : Steady s u) (hk : x.Sat KeepsD KeepsT)
    (hc : KeepsControl u x) : StaysSteady s x := by
  cases x with
  | done a v => exact h.step hk fun _ => hc.userKept
  | trapped v => exact h.trap hk hc
  | faulted f => trivial
  | refused r => trivial

theorem raise_steady {α : Type} (c : TrapClass) (r : TrapReason) (d : TrapDetail) {s u : State} (h : Steady s u) :
    StaysSteady s (raise c r d u : Exec α) := h.of_control (raise_keeps _ _ _ h.keeps.1) (raise_control _ _ _ (.refl u))

/-! ## Rules keep states steady

Every instruction's rule, alone and in a delay slot, stays steady: first the updates of the state, then the operations the rules
share, then the rules. -/

/-! ### Updates -/

section
variable {s u : State} (h : Steady s u)
include h

theorem Steady.setX (i : Reg) (v : Word) : Steady s (u.setX i v) := h.same rfl rfl ⟨rfl, rfl, rfl, rfl, rfl⟩
theorem Steady.setF (i : Reg) (v : Word) : Steady s (u.setF i v) := h.same rfl rfl ⟨rfl, rfl, rfl, rfl, rfl⟩
theorem Steady.setPair (i : Reg) (low high : Word) : Steady s (u.setPair i low high) :=
  h.same rfl rfl ⟨rfl, rfl, rfl, rfl, rfl⟩
theorem Steady.setFd (i : Reg) (v : Dword) : Steady s (u.setFd i v) := h.same rfl rfl ⟨rfl, rfl, rfl, rfl, rfl⟩
theorem Steady.fw (p : Prec) (i : Reg) (v : Dword) : Steady s (u.fw p i v) :=
  h.same (State.sound_fw ..) (State.quiet_fw ..) (sameControl_fw ..)
theorem Steady.nextFree : Steady s u.nextFree := h.same rfl rfl ⟨rfl, rfl, rfl, rfl, rfl⟩
theorem Steady.setMerge (v : Dword) : Steady s (u.setMerge v) := h.same rfl rfl ⟨rfl, rfl, rfl, rfl, rfl⟩
theorem Steady.afterReadFir : Steady s u.afterReadFir := h.same rfl rfl ⟨rfl, rfl, rfl, rfl, rfl⟩
theorem Steady.withPc (pc : Word) : Steady s { u with pc := pc } := h.same rfl rfl ⟨rfl, rfl, rfl, rfl, rfl⟩
theorem Steady.withDb (v : Word) (hu : u.user = false) : Steady s { u with db := v } :=
  h.step h.keeps fun hu' => absurd hu' (by rw [hu]; decide)
theorem Steady.setSE (b : Bool) : Steady s (u.setSE b) := h.same (State.sound_setSE ..) rfl ⟨rfl, rfl, rfl, rfl, rfl⟩

theorem Steady.autoInc (inc : Bool) (i : Reg) (v : Word) : Steady s (u.autoInc inc i v) := by
  cases inc with
  | true => exact h.setX i v
  | false => exact h

theorem Steady.loadK (m1 : M1Route) (k : Tagged) : Steady s (u.loadK m1 k) :=
  h.same (State.sound_loadK ..) (State.quiet_loadK ..) (by cases m1 <;> exact ⟨rfl, rfl, rfl, rfl, rfl⟩)

theorem Steady.loadT (e : Option Entry) : Steady s (u.loadT e) :=
  h.same (State.sound_loadT ..) (State.quiet_loadT ..) (by cases e <;> exact ⟨rfl, rfl, rfl, rfl, rfl⟩)

/-- fsr with its reserved bits as before. -/
theorem Steady.withFsr {w : Word} (hw : w &&& ~~~fsrMask = u.fsr &&& ~~~fsrMask) : Steady s { u with fsr := w } :=
  h.same (State.sound_with_fsr w hw) rfl ⟨rfl, rfl, rfl, rfl, rfl⟩

/-- psr with its reserved bit as before and, in user mode, only the bits of user mode written. -/
theorem Steady.withPsr {w : Word} (hw : w &&& ~~~psrDefined = u.psr &&& ~~~psrDefined)
    (hk : u.user = true → ∀ k, ¬ userBit k → w.getLsbD k = u.psr.getLsbD k) : Steady s { u with psr := w } :=
  h.step ⟨(State.sound_with_psr w hw).trans h.keeps.1, h.keeps.2⟩ fun hu => ⟨rfl, fun _ _ => rfl, fun _ _ => rfl, hk hu, rfl⟩

/-- A bit of psr that user mode may write. -/
theorem Steady.setPsrBit (i : Nat) (b : Bool) (hi : i < 32) (hd : (~~~psrDefined).getLsbD i = false) (hu : userBit i) :
    Steady s { u with psr := setBit u.psr i b } :=
  h.withPsr (setBit_and _ _ i b hi hd) fun _ _ hk => getLsbD_setBit_ne _ _ _ _ hi (by rintro rfl; exact hk hu)

theorem Steady.setCC (b : Bool) : Steady s (u.setCC b) := h.setPsrBit 2 b (by decide) (by decide) (.inl rfl)
theorem Steady.setLCC (b : Bool) : Steady s (u.setLCC b) := h.setPsrBit 3 b (by decide) (by decide) (.inr (.inl rfl))
theorem Steady.clearKNF : Steady s u.clearKNF := h.setPsrBit 15 false (by decide) (by decide) (.inr (.inr (.inl rfl)))

/-- A field of psr above bit 16. -/
theorem Steady.setPsrField {n : Nat} (lo : Nat) (v : BitVec n) (hlo : 17 ≤ lo) (hn : lo + n ≤ 32) :
    Steady s { u with psr := setField u.psr lo v } := by
  have hd : ∀ j, 17 ≤ j → (~~~psrDefined).getLsbD j = false := by
    intro j hj
    by_cases h32 : j < 32
    · interval_cases j <;> decide
    · exact BitVec.getLsbD_of_ge _ _ (Nat.le_of_not_lt h32)
  refine h.withPsr (setField_and _ _ lo v hn fun j hj _ => hd j (by omega)) fun _ k hk => ?_
  rw [getLsbD_setField _ _ _ _ hn, if_neg (fun hr => hk (.inr (.inr (.inr (by omega)))))]

theorem Steady.setSC (v : BitVec 5) : Steady s (u.setSC v) := h.setPsrField 17 v (by decide) (by decide)
theorem Steady.setPM (v : BitVec 8) : Steady s (u.setPM v) := h.setPsrField 24 v (by decide) (by decide)

theorem Steady.setOF (b : Bool) : Steady s (u.setOF b) :=
  h.step ⟨(State.sound_setOF ..).trans h.keeps.1, h.keeps.2⟩ fun _ =>
    ⟨rfl, fun _ _ => rfl, fun _ hk => getLsbD_setBit_ne _ _ _ _ (by decide) hk, fun _ _ => rfl, rfl⟩

theorem Steady.setBL (b : Bool) : Steady s (u.setBL b) :=
  h.step ⟨(State.sound_setBL ..).trans h.keeps.1, h.keeps.2⟩ fun _ =>
    ⟨rfl, fun _ hk => getLsbD_setBit_ne _ _ _ _ (by decide) hk, fun _ _ => rfl, fun _ _ => rfl, rfl⟩

theorem Steady.busWrite (n : BusSize) (b : Bool) (pa v : Word) : Steady s (busWrite n b pa v u) :=
  h.step ⟨busWrite_sound h.keeps.1 n b pa v, h.keeps.2⟩ fun _ => (sameControl_busWrite n b pa v (.refl u)).userKept

/-- Both pipelines of the floating-point units with stages that fit. -/
theorem Steady.withPipes {a m : Pipe} (ha : a.fits = true) (hm : m.fits = true) :
    Steady s { u with adder := a, multiplier := m } :=
  h.step ⟨sound_with_multiplier (sound_with_adder h.keeps.1 ha) hm, h.keeps.2⟩ fun _ =>
    SameControl.userKept ⟨rfl, rfl, rfl, rfl, rfl⟩

/-! ### Shared operations -/

theorem fetch_steady (va : Word) : StaysSteady s (fetch va u) :=
  h.of_control (fetch_keeps va h.keeps) (fetch_control va (.refl u))

theorem dataAddress_steady (k : Nat) (kind : AccessKind) (va : Word) : StaysSteady s (dataAddress k kind va u) :=
  h.of_control (dataAddress_keeps k kind va h.keeps) (dataAddress_control k kind va (.refl u))

theorem dataRead_steady (n : BusSize) (va : Word) : StaysSteady s (dataRead n va u) :=
  h.of_control (dataRead_keeps n va h.keeps) (dataRead_control n va (.refl u))

theorem dataRead64_steady (va : Word) : StaysSteady s (dataRead64 va u) :=
  h.of_control (dataRead64_keeps va h.keeps) (dataRead64_control va (.refl u))

theorem dataRead128_steady (va : Word) : StaysSteady s (dataRead128 va u) :=
  h.of_control (dataRead128_keeps va h.keeps) (dataRead128_control va (.refl u))

theorem dataWrite_steady (n : BusSize) (va v : Word) : StaysSteady s (dataWrite n va v u) :=
  h.of_control (dataWrite_keeps n va v h.keeps) (dataWrite_control n va v (.refl u))

theorem dataWrite64_steady (va : Word) (v : Dword) : StaysSteady s (dataWrite64 va v u) :=
  h.of_control (dataWrite64_keeps va v h.keeps) (dataWrite64_control va v (.refl u))

theorem dataWrite128_steady (va : Word) (v w : Dword) : StaysSteady s (dataWrite128 va v w u) :=
  h.of_control (dataWrite128_keeps va v w h.keeps) (dataWrite128_control va v w (.refl u))

theorem fpCheck_steady (unit : FpUnit) (x : FVal) (p : Prec) (se : Bool) : StaysSteady s (fpCheck unit x p se u) :=
  h.of_control (fpCheck_keeps unit x p se h.keeps) (fpCheck_control unit x p se u)

theorem retire_steady (e : Option Entry) (r : Prec) (dest : Reg) : StaysSteady s (retire e r dest u) :=
  h.of_control (retire_keeps e r dest h.keeps) (retire_control e r dest (.refl u))

theorem issueAdder_steady (r : Prec) (dest : Reg) {e : Option Entry} (he : stageFits e = true) :
    StaysSteady s (issueAdder r dest e u) :=
  h.of_control (issueAdder_keeps r dest he h.keeps) (retire_control _ _ _ ⟨rfl, rfl, rfl, rfl, rfl⟩)

theorem issueMultiplier_steady (d : Depth) (r : Prec) (dest : Reg) {e : Option Entry} (he : stageFits e = true) :
    StaysSteady s (issueMultiplier d r dest e u) :=
  h.of_control (issueMultiplier_keeps d r dest he h.keeps) (retire_control _ _ _ ⟨rfl, rfl, rfl, rfl, rfl⟩)

theorem issueLoader_steady (r : Prec) (dest : Reg) {e : Option Entry} (he : stageFits e = true) :
    StaysSteady s (issueLoader r dest e u) :=
  h.of_control (issueLoader_keeps r dest he h.keeps) (retire_control _ _ _ ⟨rfl, rfl, rfl, rfl, rfl⟩)

theorem issueGraphics_steady (r : Prec) (dest : Reg) {e : Option Entry} (he : stageFits e = true) :
    StaysSteady s (issueGraphics r dest e u) :=
  h.of_control (issueGraphics_keeps r dest he h.keeps) (retire_control _ _ _ ⟨rfl, rfl, rfl, rfl, rfl⟩)

end

/-- A new entry fits its stage (R52). -/
theorem stageFits_entryOf (p : Prec) (v : Dword) : stageFits (some (entryOf p v)) = true := entryOf_fits p v

section
variable {s u : State} (h : Steady s u)
include h

/-! ### Loads and stores -/

theorem loadByte_steady (ea : Word) (dest : Reg) : StaysSteady s (loadByte ea dest u) :=
  (dataRead_steady h _ ea).bind fun _ _ h1 => h1.setX dest _

theorem loadHalf_steady (ea : Word) (dest : Reg) : StaysSteady s (loadHalf ea dest u) :=
  (dataRead_steady h _ ea).bind fun _ _ h1 => h1.setX dest _

theorem loadWord_steady (ea : Word) (dest : Reg) : StaysSteady s (loadWord ea dest u) :=
  (dataRead_steady h _ ea).bind fun _ _ h1 => h1.setX dest _

theorem fldSingle_steady (ea : Word) (src2 fdest : Reg) (inc : Bool) : StaysSteady s (fldSingle ea src2 fdest inc u) :=
  (dataRead_steady h _ ea).bind fun _ _ h1 => (h1.setF fdest _).autoInc inc src2 ea

theorem fldDouble_steady (ea : Word) (src2 fdest : Reg) (inc : Bool) : StaysSteady s (fldDouble ea src2 fdest inc u) := by
  unfold fldDouble; split
  · trivial
  · exact (dataRead64_steady h ea).bind fun _ _ h1 => (h1.setFd fdest _).autoInc inc src2 ea

theorem fldQuad_steady (ea : Word) (src2 fdest : Reg) (inc : Bool) : StaysSteady s (fldQuad ea src2 fdest inc u) := by
  unfold fldQuad; split
  · trivial
  · exact (dataRead128_steady h ea).bind fun _ _ h1 => ((h1.setFd fdest _).setFd (fdest + 2#5) _).autoInc inc src2 ea

theorem fstSingle_steady (ea : Word) (src2 fdest : Reg) (inc : Bool) : StaysSteady s (fstSingle ea src2 fdest inc u) :=
  (dataWrite_steady h _ ea _).bind fun _ _ h1 => h1.autoInc inc src2 ea

theorem fstDouble_steady (ea : Word) (src2 fdest : Reg) (inc : Bool) : StaysSteady s (fstDouble ea src2 fdest inc u) := by
  unfold fstDouble; split
  · trivial
  · exact (dataWrite64_steady h ea _).bind fun _ _ h1 => h1.autoInc inc src2 ea

theorem fstQuad_steady (ea : Word) (src2 fdest : Reg) (inc : Bool) : StaysSteady s (fstQuad ea src2 fdest inc u) := by
  unfold fstQuad; split
  · trivial
  · exact (dataWrite128_steady h ea _ _).bind fun _ _ h1 => h1.autoInc inc src2 ea

theorem pfldSingle_steady (ea : Word) (src2 fdest : Reg) (inc : Bool) : StaysSteady s (pfldSingle ea src2 fdest inc u) :=
  (dataRead_steady h _ ea).bind fun _ _ h1 =>
    (issueLoader_steady h1 _ fdest (stageFits_entryOf _ _)).bind fun _ _ h2 => h2.autoInc inc src2 ea

theorem pfldDouble_steady (ea : Word) (src2 fdest : Reg) (inc : Bool) : StaysSteady s (pfldDouble ea src2 fdest inc u) :=
  (dataRead64_steady h ea).bind fun _ _ h1 =>
    (issueLoader_steady h1 _ fdest (stageFits_entryOf _ _)).bind fun _ _ h2 => h2.autoInc inc src2 ea

theorem storePixel_steady (n : BusSize) (pm : BitVec 8) (pa : Word) (v : Dword) (i : Nat) :
    Steady s (storePixel n pm pa v u i) := by
  unfold storePixel; split
  · exact h.busWrite ..
  · exact h

theorem storePixels_steady (n : BusSize) (pm : BitVec 8) (pa : Word) (v : Dword) : Steady s (storePixels n pm pa v u) := by
  unfold storePixels
  generalize List.range (pixelCount n) = pixels
  induction pixels generalizing u with
  | nil => exact h
  | cons i rest ih => exact ih (storePixel_steady h n pm pa v i)

theorem bodyPstd_steady (fdest : Reg) (imm : BitVec 13) (src2 : Reg) (inc : Bool) :
    StaysSteady s (bodyPstd fdest imm src2 inc u) := by
  unfold bodyPstd
  split
  · trivial
  · split
    · trivial
    · exact (dataAddress_steady h ..).bind fun _ _ h1 => ((storePixels_steady h1 ..).setPM _).autoInc inc src2 _

theorem bodyFlush_steady (imm : BitVec 15) (src2 dest : Reg) (inc : Bool) : StaysSteady s (bodyFlush imm src2 dest inc u) := by
  unfold bodyFlush
  dsimp only
  split
  · exact h.autoInc ..
  · exact (h.autoInc ..).nextFree.setX ..

/-! ### Integer instructions -/

theorem addUnsigned_steady (a b : Word) (dest : Reg) : StaysSteady s (addUnsigned a b dest u) :=
  ((h.setX dest _).setCC _).setOF _

theorem subUnsigned_steady (a b : Word) (dest : Reg) : StaysSteady s (subUnsigned a b dest u) :=
  ((h.setX dest _).setCC _).setOF _

theorem addSigned_steady (a b : Word) (dest : Reg) : StaysSteady s (addSigned a b dest u) :=
  ((h.setX dest _).setCC _).setOF _

theorem subSigned_steady (a b : Word) (dest : Reg) : StaysSteady s (subSigned a b dest u) :=
  ((h.setX dest _).setCC _).setOF _

theorem Steady.writeShift (count shifted : Word) (dest : Reg) : Steady s (writeShift count shifted dest u) := by
  unfold Machine.writeShift; split
  · exact h.setX ..
  · exact h.nextFree.setX ..

theorem logical_steady (r : Word) (dest : Reg) : StaysSteady s (logical r dest u) := (h.setX dest r).setCC _

end

/-! ### System instructions -/

/-- A masked write keeps the bits of a mask it has no bit in common with. -/
theorem maskedWrite_and_of_disjoint {mask m : Word} (hm : mask &&& m = 0#32) (old new : Word) :
    maskedWrite mask old new &&& m = old &&& m := by
  apply word_ext
  intro j hj
  have hbit : (mask.getLsbD j && m.getLsbD j) = false := by rw [← BitVec.getLsbD_and, hm]; simp
  rw [BitVec.getLsbD_and, BitVec.getLsbD_and, getLsbD_maskedWrite _ _ _ _ hj]
  split
  · next hmask =>
    have hclear : m.getLsbD j = false := by rw [hmask] at hbit; exact hbit
    rw [hclear, Bool.and_false, Bool.and_false]
  · rfl

/-- Outside the bits of user mode the mask of a user-mode st.c is clear (R285). -/
theorem psrUserMask_of_not_userBit {k : Nat} (hk : ¬ userBit k) : psrUserMask.getLsbD k = false := by
  have h17 : k < 17 := by unfold userBit at hk; omega
  unfold userBit at hk
  interval_cases k <;> revert hk <;> decide

/-- st.c to psr, in either mode. -/
theorem Steady.writePsr {s u : State} (h : Steady s u) (v : Word) :
    Steady s { u with psr := maskedWrite u.psrWriteMask u.psr v } := by
  unfold State.psrWriteMask
  cases hu : u.user with
  | true =>
    refine h.withPsr (maskedWrite_and_of_disjoint (by decide) _ _) fun _ k hk => ?_
    have h32 : k < 32 := by unfold userBit at hk; omega
    rw [if_pos rfl, getLsbD_maskedWrite _ _ _ _ h32, psrUserMask_of_not_userBit hk]; rfl
  | false =>
    exact h.withPsr (maskedWrite_and_of_disjoint (by decide) _ _) fun hu' => absurd hu' (by rw [hu]; decide)

/-- st.c, to whatever control register and in either mode (R282, R285). -/
theorem Steady.writeControl {s u v : State} (h : Steady s u) {csrc2 : Reg} {w : Word}
    (hv : u.writeControl csrc2 w = some v) : Steady s v := by
  have supervisor : ∀ {v' : State}, (u.user = false → Steady s v') → Steady s (if u.user then u else v') := by
    intro v' hv'
    split
    · exact h
    · exact hv' (by simpa using ‹¬u.user = true›)
  unfold State.writeControl at hv
  split at hv
  case h_1 => cases hv; exact h
  case h_2 => cases hv; exact h.writePsr w
  case h_3 =>
    cases hv
    exact supervisor fun hu => h.step ⟨(State.sound_with_dirbase _ (maskedWrite_and_not ..)).trans h.keeps.1, h.keeps.2⟩
      fun hu' => absurd hu' (by rw [hu]; decide)
  case h_4 => cases hv; exact supervisor fun hu => h.withDb w hu
  case h_5 => cases hv; exact h.withFsr (maskedWrite_and_not ..)
  case h_6 =>
    cases hv
    exact supervisor fun hu => h.step ⟨(State.sound_with_epsr _ (maskedWrite_and_not ..)).trans h.keeps.1, h.keeps.2⟩
      fun hu' => absurd hu' (by rw [hu]; decide)
  case h_7 => cases hv

theorem bodyStc_steady {s u : State} (h : Steady s u) (src1 csrc2 : Reg) : StaysSteady s (bodyStc src1 csrc2 u) := by
  unfold bodyStc
  cases hw : u.writeControl csrc2 (u.x src1) with
  | some v => exact h.writeControl hw
  | none => exact raise_steady _ _ _ h

theorem bodyLdc_steady {s u : State} (h : Steady s u) (csrc2 dest : Reg) : StaysSteady s (bodyLdc csrc2 dest u) := by
  unfold bodyLdc
  cases u.readControl csrc2 with
  | some v =>
    refine Steady.setX ?_ dest v
    unfold State.afterReadControl
    split
    · exact h.afterReadFir
    · exact h
  | none => exact raise_steady _ _ _ h

theorem bodyLock_steady {s u : State} (h : Steady s u) : StaysSteady s (bodyLock u) := h.setBL true

theorem bodyUnlock_steady {s u : State} (h : Steady s u) : StaysSteady s (bodyUnlock u) := h.setBL false

theorem bodyIntovr_steady {s u : State} (h : Steady s u) : StaysSteady s (bodyIntovr u) := by
  unfold bodyIntovr
  split
  · exact raise_steady _ _ _ h
  · exact h

/-! ## Floating-point, dual and graphics rules keep states steady

The FP-escape rules stay steady. A rule that checks and then continues takes the fact about its continuation as a hypothesis. -/

/-- What a rule does with its result: it stays steady from every steady state. -/
abbrev ContinuesSteady (s : State) (k : Dword → State → Exec Unit) : Prop := ∀ v u, Steady s u → StaysSteady s (k v u)

/-! ### The checks of a form -/

theorem fpEscape_steady {s u : State} (h : Steady s u) (d : Bool) {body : State → Exec Unit} (hb : StaysSteady s (body u)) :
    StaysSteady s (fpEscape d body u) := fpEscape_sat h.clearKNF hb

theorem requireAligned_steady {s u : State} (ok : Bool) {k : State → Exec Unit} (hk : StaysSteady s (k u)) :
    StaysSteady s (requireAligned ok k u) := by
  unfold requireAligned; split
  · exact hk
  · trivial

theorem requirePair_steady {s u : State} (ok : Bool) {k : State → Exec Unit} (hk : StaysSteady s (k u)) :
    StaysSteady s (requirePair ok k u) := by
  unfold requirePair; split
  · exact hk
  · trivial

/-- The three checks in a row: KNF and the D bit, the precision pair, the alignment. -/
theorem checked_steady {s u : State} (h : Steady s u) (d pairOk alignedOk : Bool) {k : State → Exec Unit}
    (hk : StaysSteady s (k u)) : StaysSteady s (fpEscape d (requirePair pairOk <| requireAligned alignedOk k) u) :=
  fpEscape_steady h d (requirePair_steady pairOk (requireAligned_steady alignedOk hk))

/-! ### Where a result goes -/

theorem writeScalar_steady (s : State) (r : Prec) (dest : Reg) : ContinuesSteady s (writeScalar r dest) :=
  fun v _ h => h.fw r dest v

theorem pushAdder_steady (s : State) (r : Prec) (dest : Reg) : ContinuesSteady s (pushAdder r dest) :=
  fun v _ h => issueAdder_steady h r dest (stageFits_entryOf r v)

theorem pushMultiplier_steady (s : State) (d : Depth) (r : Prec) (dest : Reg) : ContinuesSteady s (pushMultiplier d r dest) :=
  fun v _ h => issueMultiplier_steady h d r dest (stageFits_entryOf r v)

theorem pushGraphics_steady (s : State) (r : Prec) (dest : Reg) : ContinuesSteady s (pushGraphics r dest) :=
  fun v _ h => issueGraphics_steady h r dest (stageFits_entryOf r v)

/-! ### Arithmetic, conversions, compares -/

/-- The status of a conversion leaves the reserved bits of fsr (R350). -/
theorem conversionFsr_and (c : Conversion) (w : Word) : conversionFsr c w &&& ~~~fsrMask = w &&& ~~~fsrMask := by
  unfold conversionFsr
  rw [stickInexact_and, setBit_and _ _ 15 _ (by decide) (by decide), setBit_and _ _ 8 _ (by decide) (by decide)]

section
variable {s u : State} (h : Steady s u)
include h

theorem arith_steady (unit : FpUnit) (op : ExactOp) (src1 src2 : Reg) (sp rp : Prec) {k : Dword → State → Exec Unit}
    (hk : ContinuesSteady s k) : StaysSteady s (arith unit op src1 src2 sp rp k u) :=
  (fpCheck_steady h ..).bind fun v _ h1 => hk v _ h1

theorem scalarArith_steady (unit : FpUnit) (op : ExactOp) (o : Fp3) : StaysSteady s (scalarArith unit op o u) :=
  checked_steady h _ _ _ (arith_steady h _ _ _ _ _ _ (writeScalar_steady s _ _))

theorem pipedArith_steady (unit : FpUnit) (op : ExactOp) {push : Prec → Reg → Dword → State → Exec Unit} (o : Fp3)
    (hp : ContinuesSteady s (push o.r o.dest)) : StaysSteady s (pipedArith unit op push o u) :=
  checked_steady h _ _ _ (arith_steady h _ _ _ _ _ _ hp)

theorem bodyPfmul3_steady (o : FpDd) : StaysSteady s (bodyPfmul3 o u) :=
  fpEscape_steady h _ (requireAligned_steady _ (arith_steady h _ _ _ _ _ _ (pushMultiplier_steady s _ _ _)))

theorem bodyFmlow_steady (o : FpDd) : StaysSteady s (bodyFmlow o u) :=
  fpEscape_steady h _ (requireAligned_steady _ (h.nextFree.setPair ..))

theorem approximate_steady (outside : FVal → Bool) (fn : Dword → Prec → Prec → Dword) (o : Fp2) :
    StaysSteady s (approximate outside fn o u) := by
  unfold approximate
  split
  · split
    · exact raise_steady _ _ _ (h.setSE true)
    · exact (h.setSE true).nextFree.fw ..
  · exact (h.setSE false).fw ..

theorem scalarApproximate_steady (outside : FVal → Bool) (fn : Dword → Prec → Prec → Dword) (o : Fp2) :
    StaysSteady s (scalarApproximate outside fn o u) := checked_steady h _ _ _ (approximate_steady h outside fn o)

theorem convertTo_steady (rm : RMode) (o : Fp2) {k : Word → Word → State → Exec Unit}
    (hk : ∀ low high v, Steady s v → StaysSteady s (k low high v)) : StaysSteady s (convertTo rm o k u) := by
  unfold convertTo
  dsimp only
  generalize convert rm (u.nextFree.free.getLsbD 0) (fval o.s (u.fr o.s o.src)) = c
  have hs : Steady s { u.nextFree.nextFree with fsr := conversionFsr c u.fsr } :=
    h.nextFree.nextFree.withFsr (conversionFsr_and c u.fsr)
  split
  · exact raise_steady _ _ _ (h.setSE true)
  · split
    · exact raise_steady _ _ _ hs
    · exact hk _ _ _ hs

theorem scalarConvert_steady (rm : State → RMode) (o : Fp2) : StaysSteady s (scalarConvert rm o u) :=
  checked_steady h _ _ _ (convertTo_steady h _ _ fun low high _ h1 => h1.setPair o.dest low high)

theorem pipedConvert_steady (rm : State → RMode) (o : Fp2) : StaysSteady s (pipedConvert rm o u) :=
  checked_steady h _ _ _ (convertTo_steady h _ _ fun low high v h1 => pushAdder_steady s .double o.dest (high ++ low) v h1)

theorem move_steady (o : Fp2) {k : Dword → State → Exec Unit} (hk : ContinuesSteady s k) : StaysSteady s (move o k u) :=
  (fpCheck_steady h ..).bind fun v _ h1 => hk v _ h1

theorem bodyFamov_steady (o : Fp2) : StaysSteady s (bodyFamov o u) :=
  fpEscape_steady h _ (requireAligned_steady _ (move_steady h o (writeScalar_steady s _ _)))

theorem bodyPfamov_steady (o : Fp2) : StaysSteady s (bodyPfamov o u) :=
  fpEscape_steady h _ (requireAligned_steady _ (move_steady h o (pushAdder_steady s _ _)))

theorem compare_steady (test : FVal → FVal → Bool) (src1 src2 dest : Reg) (p : Prec) :
    StaysSteady s (compare test src1 src2 dest p u) := by
  unfold compare
  dsimp only
  split
  · exact raise_steady _ _ _ (h.setSE _)
  · exact issueAdder_steady ((h.setSE _).setCC _) p dest rfl

theorem bodyPfgt_steady (o : FpCmp) : StaysSteady s (bodyPfgt o u) :=
  fpEscape_steady h _ (requireAligned_steady _ (compare_steady h ..))

theorem bodyPfle_steady (o : FpCmp) : StaysSteady s (bodyPfle o u) :=
  fpEscape_steady h _ (requireAligned_steady _ (compare_steady h ..))

theorem bodyPfeq_steady (o : Fp3) : StaysSteady s (bodyPfeq o u) := checked_steady h _ _ _ (compare_steady h ..)

theorem bodyFxfr_steady (o : FpXfr) : StaysSteady s (bodyFxfr o u) := fpEscape_steady h _ (h.setX ..)

/-! ### Dual operations -/

theorem unitResult_steady (unit : FpUnit) (op : ExactOp) (sp rp : Prec) (a b : UnitOperand) :
    StaysSteady s (unitResult unit op sp rp a b u) := by
  unfold unitResult
  split
  · exact fpCheck_steady h ..
  · exact h.nextFree
  · exact h.nextFree

theorem dualCommit_steady (dpc : BitVec 4) (out : DualOut) (o : Fp3) (knew : Tagged) (mres ares : Dword) :
    StaysSteady s (dualCommit dpc out o knew mres ares u) := by
  unfold dualCommit
  extract_lets aout mout s1 s2 s3
  have h1 : Steady s s1 := by
    unfold s1; split
    · exact h.loadK ..
    · exact h
  have h2 : Steady s s2 := by
    unfold s2; split
    · exact h1.loadT ..
    · exact h1
  obtain ⟨-, -, hadder, hmultiplier, -⟩ := (State.sound_iff s2).mp h2.keeps.1
  have h3 : Steady s s3 :=
    h2.withPipes (Pipe.fits_push3 hadder (stageFits_entryOf ..)) (Pipe.fits_push hmultiplier _ (stageFits_entryOf ..))
  cases out with
  | adder => exact retire_steady h3 ..
  | multiplier => exact retire_steady h3 ..

theorem dualResults_steady (op : ExactOp) (o : Fp3) (ops : DualOperands) {k : Dword → Dword → State → Exec Unit}
    (hk : ∀ mres, ContinuesSteady s (k mres)) : StaysSteady s (dualResults op o ops k u) :=
  (unitResult_steady h ..).bind fun mres _ h1 => (unitResult_steady h1 ..).bind fun ares _ h2 => by
    refine hk mres ares _ ?_
    split
    · exact h2.setSE _
    · exact h2

theorem dualOp_steady (op : ExactOp) (out : DualOut) (dpc : BitVec 4) (o : Fp3) : StaysSteady s (dualOp op out dpc o u) := by
  refine checked_steady h _ _ _ ?_
  dsimp only
  split
  · exact dualResults_steady h _ _ _ fun mres ares _ h1 => dualCommit_steady h1 ..
  · trivial

end

/-! ### Graphics -/

/-- A graphics operation stays steady from every steady state. -/
abbrev GraphicsSteady (s : State) (op : GraphicsOp) : Prop := ∀ a b u, Steady s u → StaysSteady s (op a b u)

theorem intAdd_steady (s : State) : GraphicsSteady s intAdd := fun _ _ _ h => h

theorem intSub_steady (s : State) : GraphicsSteady s intSub := fun _ _ _ h => h

theorem pixelAdd_steady (s : State) : GraphicsSteady s pixelAdd := by
  intro a b u h
  unfold pixelAdd
  split
  · exact h.setMerge _
  · trivial

theorem zAdd_steady (s : State) : GraphicsSteady s zAdd := fun _ _ _ h => h.setMerge _

theorem zCheck32_steady (s : State) : GraphicsSteady s zCheck32 := fun _ _ _ h => h.setPM _

theorem zCheck16_steady (s : State) : GraphicsSteady s zCheck16 := fun _ _ _ h => h.setPM _

section
variable {s u : State} (h : Steady s u)
include h

theorem scalarGraphics_steady (pair : Prec → Prec → Bool) {op : GraphicsOp} (hop : GraphicsSteady s op) (o : Fp3) :
    StaysSteady s (scalarGraphics pair op o u) :=
  checked_steady h _ _ _ ((hop _ _ u h).bind fun v _ h1 => writeScalar_steady s o.r o.dest v _ h1)

theorem pipedGraphics_steady (pair : Prec → Prec → Bool) {op : GraphicsOp} (hop : GraphicsSteady s op) (o : Fp3) :
    StaysSteady s (pipedGraphics pair op o u) :=
  checked_steady h _ _ _ ((hop _ _ u h).bind fun v _ h1 => pushGraphics_steady s o.r o.dest v _ h1)

theorem bodyForm_steady (o : Fp2) : StaysSteady s (bodyForm o u) :=
  checked_steady h _ _ _ (writeScalar_steady s _ _ _ _ (h.setMerge _))

theorem bodyPform_steady (o : Fp2) : StaysSteady s (bodyPform o u) :=
  checked_steady h _ _ _ (pushGraphics_steady s _ _ _ _ (h.setMerge _))

end

/-! ## Steps

From the rules to the step: a delay slot, a control transfer, the end of the step; then the invariant and the confinement of user
mode. -/

/-! ### The rule of an instruction -/

/-- The rule of an instruction, in a delay slot or not, stays steady; a control transfer is refused in a slot (R241). -/
theorem slotBody_steady (i : Instr) {s u : State} (h : Steady s u) : StaysSteady s (slotBody i u) := by
  cases i with
  | ldbR | ldbI => exact loadByte_steady h ..
  | ldsR | ldsI => exact loadHalf_steady h ..
  | ldlR | ldlI => exact loadWord_steady h ..
  | stb | sts | stl => exact dataWrite_steady h ..
  | ixfr => exact h.setF ..
  | fldlR | fldlI => exact fldSingle_steady h ..
  | flddR | flddI => exact fldDouble_steady h ..
  | fldqR | fldqI => exact fldQuad_steady h ..
  | fstlR | fstlI => exact fstSingle_steady h ..
  | fstdR | fstdI => exact fstDouble_steady h ..
  | fstqR | fstqI => exact fstQuad_steady h ..
  | pfldlR | pfldlI => exact pfldSingle_steady h ..
  | pflddR | pflddI => exact pfldDouble_steady h ..
  | pstd => exact bodyPstd_steady h ..
  | flush => exact bodyFlush_steady h ..
  | ldc => exact bodyLdc_steady h ..
  | stc => exact bodyStc_steady h ..
  | adduR | adduI => exact addUnsigned_steady h ..
  | subuR | subuI => exact subUnsigned_steady h ..
  | addsR | addsI => exact addSigned_steady h ..
  | subsR | subsI => exact subSigned_steady h ..
  | shlR | shlI | shraR | shraI => exact h.writeShift ..
  | shrR | shrI => exact (h.setSC _).writeShift ..
  | shrd => exact h.setX ..
  | andR | andI | andnotR | andnotI | orR | orI | xorR | xorI | andh | andnoth | orh | xorh => exact logical_steady h ..
  | bri | trap | btneR | btneI | bteR | bteI | br | call | bc | bct | bnc | bnct | bla | lock | calli | intovr | unlock =>
    trivial
  | pfmam | pfmsm | pfam | pfsm => exact dualOp_steady h ..
  | fadd | fsub | fmul => exact scalarArith_steady h ..
  | pfadd | pfsub => exact pipedArith_steady h _ _ _ (pushAdder_steady s _ _)
  | pfmul => exact pipedArith_steady h _ _ _ (pushMultiplier_steady s _ _ _)
  | fmlow => exact bodyFmlow_steady h _
  | pfmul3 => exact bodyPfmul3_steady h _
  | frcp | frsqr => exact scalarApproximate_steady h ..
  | fix | ftrunc => exact scalarConvert_steady h ..
  | pfix | pftrunc => exact pipedConvert_steady h ..
  | famov => exact bodyFamov_steady h _
  | pfamov => exact bodyPfamov_steady h _
  | pfgt => exact bodyPfgt_steady h _
  | pfle => exact bodyPfle_steady h _
  | pfeq => exact bodyPfeq_steady h _
  | fxfr => exact bodyFxfr_steady h _
  | fiadd => exact scalarGraphics_steady h _ (intAdd_steady s) _
  | pfiadd => exact pipedGraphics_steady h _ (intAdd_steady s) _
  | fisub => exact scalarGraphics_steady h _ (intSub_steady s) _
  | pfisub => exact pipedGraphics_steady h _ (intSub_steady s) _
  | faddp => exact scalarGraphics_steady h _ (pixelAdd_steady s) _
  | pfaddp => exact pipedGraphics_steady h _ (pixelAdd_steady s) _
  | faddz => exact scalarGraphics_steady h _ (zAdd_steady s) _
  | pfaddz => exact pipedGraphics_steady h _ (zAdd_steady s) _
  | fzchkl => exact scalarGraphics_steady h _ (zCheck32_steady s) _
  | pfzchkl => exact pipedGraphics_steady h _ (zCheck32_steady s) _
  | fzchks => exact scalarGraphics_steady h _ (zCheck16_steady s) _
  | pfzchks => exact pipedGraphics_steady h _ (zCheck16_steady s) _
  | form => exact bodyForm_steady h _
  | pform => exact bodyPform_steady h _

/-! ### The delay slot (R241, R242) -/

theorem slotDecoded_steady (link : Bool) (w : Word) {s u : State} (h : Steady s u) : StaysSteady s (slotDecoded link w u) := by
  unfold slotDecoded
  split
  · exact raise_steady _ _ _ h
  · split
    · exact fpEscape_steady h _ trivial
    · trivial
  · split
    · trivial
    · exact slotBody_steady _ h

theorem slotRun_steady (link : Bool) {s u : State} (h : Steady s u) : StaysSteady s (slotRun link u) :=
  (fetch_steady h u.pc).bind fun w _ h1 => slotDecoded_steady link w h1

/-- A trap in the slot stays a trap of the branch: only the pc, the slot's mark and the latch are written (R242). -/
theorem SteadyTrap.inSlot {s u : State} (h : SteadyTrap s u) (b next : Word) :
    SteadyTrap s { u with pc := b, pendDslot := true, dslotTarget := next } :=
  ⟨h.keeps, fun hu hb =>
    let ⟨⟨hdb, hdirbase, hepsr, hpsr, hparams⟩, hne⟩ := h.kept hu hb
    ⟨⟨hdb, hdirbase, hepsr, hpsr, hparams⟩, hne⟩⟩

theorem pendSync_of_quiet {s : State} (h : s.quiet = true) : s.pendSync = false := by
  unfold State.quiet at h
  simp only [Bool.and_eq_true, Bool.not_eq_true'] at h
  exact h.1.1

theorem pendExt_of_quiet {s : State} (h : s.quiet = true) : s.pendExt = false := by
  unfold State.quiet at h
  simp only [Bool.and_eq_true, Bool.not_eq_true'] at h
  exact h.2

theorem delaySlot_steady (link : Bool) (next : Word) {s u : State} (h : Steady s u) : StaysSteady s (delaySlot link next u) := by
  have hslot := slotRun_steady link (h.withPc (u.pc + 4#32))
  unfold delaySlot
  cases hr : slotRun link { u with pc := u.pc + 4#32 } with
  | done a v =>
    have hv : Steady s v := by rw [hr] at hslot; exact hslot
    dsimp only [afterSlot]
    rw [if_neg (by rw [pendSync_of_quiet hv.keeps.2]; decide)]
    exact hv.withPc u.pc
  | trapped v =>
    have hv : SteadyTrap s v := by rw [hr] at hslot; exact hslot
    dsimp only [afterSlot]
    rw [if_pos hv.keeps.2]
    exact hv.inSlot u.pc next
  | faulted f => trivial
  | refused q => trivial

/-! ### Control transfers -/

theorem branchIf_steady (taken : Bool) (target : Word) {s u : State} (h : Steady s u) :
    StaysSteady s (branchIf taken target u) := h

theorem delayedIf_steady (taken : Bool) (target : Word) {s u : State} (h : Steady s u) :
    StaysSteady s (delayedIf taken target u) := by
  unfold delayedIf
  split
  · exact delaySlot_steady _ _ h
  · exact h

/-- The trap return acts only with a trap bit set (R250), which the premise of user mode's confinement shuts out. -/
theorem Steady.trapReturn {s u : State} (h : Steady s u) : Steady s u.trapReturn := by
  unfold State.trapReturn
  split
  · exact h
  · next hb =>
    exact ⟨⟨(State.sound_with_psr _ (psrAtTrapReturn_and _)).trans h.keeps.1, h.keeps.2⟩,
      fun hu ht => absurd ((h.kept hu ht).trapBits.trans ht) hb⟩

theorem bodyBri_steady (src1 : Reg) {s u : State} (h : Steady s u) : StaysSteady s (bodyBri src1 u) :=
  (delaySlot_steady false _ h).bind fun _ _ h1 => h1.trapReturn

/-! ### Instructions -/

/-- An instruction that is no control transfer is executed by the rule it has in a delay slot (R132, R241). -/
theorem exec_eq_slotBody (i : Instr) (s : State) (h : ¬ TransfersControl i) : exec i s = finish s.pc (slotBody i s) := by
  cases i with
  | bri | trap | btneR | btneI | bteR | bteI | br | call | bc | bct | bnc | bnct | bla | lock | calli | intovr | unlock =>
    exact absurd (by simp [TransfersControl]) h
  | _ => rfl

/-- The outcome is no next state, or the end of a step of the instruction at `pc`, from a state a rule may leave. -/
def EndsSteady (s : State) (pc : Word) (o : StepOutcome) : Prop :=
  ∀ t, o = .next t → ∃ u target, (Steady s u ∨ SteadyTrap s u) ∧ t = u.endStep pc target

theorem finish_endsSteady {s : State} {pc : Word} {r : Exec Unit} (h : StaysSteady s r) : EndsSteady s pc (finish pc r) := by
  intro t ht
  obtain ⟨u, rfl | rfl, rfl⟩ := finish_eq_next ht
  · exact ⟨u, none, .inl h, rfl⟩
  · exact ⟨u, none, .inr h, rfl⟩

theorem finishAt_endsSteady {s : State} {pc : Word} {r : Exec (Option Word)} (h : StaysSteady s r) :
    EndsSteady s pc (finishAt pc r) := by
  intro t ht
  obtain ⟨u, ⟨target, rfl, rfl⟩ | ⟨rfl, rfl⟩⟩ := finishAt_eq_next ht
  · exact ⟨u, target, .inl h, rfl⟩
  · exact ⟨u, none, .inr h, rfl⟩

theorem exec_endsSteady (i : Instr) {s u : State} (h : Steady s u) : EndsSteady s u.pc (exec i u) := by
  cases i with
  | br => exact finishAt_endsSteady (delaySlot_steady _ _ h)
  | call | calli => exact finishAt_endsSteady (delaySlot_steady _ _ (h.setX ..))
  | bc | bnc | bteR | bteI | btneR | btneI => exact finishAt_endsSteady (branchIf_steady _ _ h)
  | bct | bnct => exact finishAt_endsSteady (delayedIf_steady _ _ h)
  | bla => exact finishAt_endsSteady (delaySlot_steady _ _ ((h.setX ..).setLCC _))
  | bri => exact finishAt_endsSteady (bodyBri_steady _ h)
  | trap => exact finish_endsSteady (raise_steady _ _ _ h)
  | intovr => exact finish_endsSteady (bodyIntovr_steady h)
  | lock => exact finish_endsSteady (bodyLock_steady h)
  | unlock => exact finish_endsSteady (bodyUnlock_steady h)
  | _ =>
    rw [exec_eq_slotBody _ _ (by simp [TransfersControl])]
    exact finish_endsSteady (slotBody_steady _ h)

theorem runDecoded_endsSteady (w : Word) {s u : State} (h : Steady s u) : EndsSteady s u.pc (runDecoded w u) := by
  unfold runDecoded
  split
  · exact exec_endsSteady _ h
  · exact finish_endsSteady (raise_steady _ _ _ h)
  · split
    · exact finish_endsSteady (fpEscape_steady h _ trivial)
    · intro t ht; cases ht

/-- What a step can do: nothing, while HOLD or RESET is asserted (R464, R473), or end from a state that some rule, begun at `s`, may
leave (R132). -/
theorem step_cases {s t : State} (hs : s.Inv) (h : step s = .next t) :
    t = s ∨ ∃ u pc target, (Steady s u ∨ SteadyTrap s u) ∧ t = u.endStep pc target := by
  unfold step at h
  split at h
  · cases h; exact .inl rfl
  · refine .inr ?_
    have hf := fetch_steady (Steady.refl hs) s.pc
    unfold runStep at h
    split at h
    · next w u hu =>
      rw [hu] at hf
      obtain ⟨v, target, hv, rfl⟩ := runDecoded_endsSteady w hf t h
      exact ⟨v, _, target, hv, rfl⟩
    · next u hu =>
      rw [hu] at hf
      cases h
      exact ⟨u, _, none, .inr hf, rfl⟩
    · cases h
    · cases h

/-! ### The invariant -/

/-- Settles O59: the end of a step restores the invariant from every state a rule may leave. -/
theorem invariantKept : Obligations.InvariantKept := by
  intro s t hs h
  obtain rfl | ⟨u, pc, target, hu | hu, rfl⟩ := step_cases hs h
  · exact hs
  · exact endStep_inv hu.keeps.1 (.inl hu.keeps.2) pc target
  · exact endStep_inv hu.keeps.1 (.inr hu.keeps.2) pc target

/-! ### User mode -/

/-- User mode confined from `s` to `t`: what O60 concludes of a step. -/
def ConfinedTo (s t : State) : Prop :=
  t.db = s.db ∧ DirbaseKeptBut (fun k => k = 4) s t ∧ EpsrKeptBut (fun k => k = 24) s t ∧
    (t.user = true → t.trapBits = 0#5 ∧ PsrKeptBut userBit s t) ∧
    (t.user = false → t.pc = s.params.trapVector ∧ t.pu = true ∧ t.im = false ∧ t.firTrap = true ∧ t.trapBits ≠ 0#5)

/-- Staying in user mode. -/
theorem UserKept.confinedTo {s t : State} (h : UserKept userBit s t) (hu : s.user = true) (hb : s.trapBits = 0#5) :
    ConfinedTo s t :=
  ⟨h.db, h.dirbase, h.epsr, fun _ => ⟨h.trapBits.trans hb, h.psr⟩,
    fun ht => absurd (h.orTrap.user.trans hu) (by rw [ht]; decide)⟩

/-- Trap entry writes no trap bit (R450). -/
theorem trapBits_trapEntry (u : State) (pc : Word) (target : Option Word) : (u.trapEntry pc target).trapBits = u.trapBits := by
  apply BitVec.eq_of_getLsbD_eq
  intro j hj
  show ((psrAtTrapEntry u.psr).extractLsb' 8 5).getLsbD j = _
  unfold State.trapBits
  rw [BitVec.getLsbD_extractLsb', BitVec.getLsbD_extractLsb', getLsbD_psrAtTrapEntry]
  interval_cases j <;> rfl

/-- Leaving user mode by trap entry (R450). -/
theorem trapEntry_confinedTo {s u : State} (h : UserKept userOrTrapBit s u) (hu : s.user = true) (hb : u.trapBits ≠ 0#5)
    (pc : Word) (target : Option Word) : ConfinedTo s (u.trapEntry pc target) := by
  have hpsr := getLsbD_psrAtTrapEntry u.psr
  have huser : (u.trapEntry pc target).user = false := hpsr 6
  have hpu : (u.trapEntry pc target).pu = true := (hpsr 7).trans (h.user.trans hu)
  have him : (u.trapEntry pc target).im = false := hpsr 4
  refine ⟨h.db, h.dirbase, h.epsr, fun ht => absurd ht (by rw [huser]; decide), fun _ => ⟨?_, hpu, him, rfl, ?_⟩⟩
  · exact congrArg Params.trapVector h.params
  · rw [trapBits_trapEntry]; exact hb

/-- The interrupt sample writes only the trap bit IN of psr (R441). -/
theorem UserKept.sampleInterrupt {s u : State} (h : UserKept userOrTrapBit s u) : UserKept userOrTrapBit s u.sampleInterrupt := by
  refine h.trans ?_
  have hpsr : PsrKeptBut userOrTrapBit u u.sampleInterrupt := fun k hk => by
    rw [getLsbD_sampleInterrupt, if_neg (by rintro rfl; exact hk (.inr (by decide)))]
  rcases sampleInterrupt_cases u with e | e <;> rw [e] at hpsr ⊢ <;> exact ⟨rfl, fun _ _ => rfl, fun _ _ => rfl, hpsr, rfl⟩

/-- The interrupt sample clears no trap bit. -/
theorem trapBits_sampleInterrupt_ne {u : State} (h : u.trapBits ≠ 0#5 ∨ (u.intPin && u.im) = true) :
    u.sampleInterrupt.trapBits ≠ 0#5 := by
  cases hi : u.intPin && u.im with
  | true => exact trapBits_ne_zero (k := 9) (by decide) (by decide) (by rw [getLsbD_sampleInterrupt, hi]; simp)
  | false =>
    have hsame : u.sampleInterrupt = u := by unfold State.sampleInterrupt; rw [hi]; rfl
    rw [hsame]
    exact h.resolve_right (by rw [hi]; decide)

/-- The end of a step keeps user mode confined: with no trap and no interrupt the state is the rule's, else trap entry is taken. -/
theorem endStep_confinedTo {s u : State} (hu : s.user = true) (hb : s.trapBits = 0#5) (h : Steady s u ∨ SteadyTrap s u)
    (pc : Word) (target : Option Word) : ConfinedTo s (u.endStep pc target) := by
  rcases h with h | h
  · have hk := h.kept hu hb
    cases hi : u.intPin && u.im with
    | true =>
      rw [endStep_of_interrupt pc target hi]
      exact trapEntry_confinedTo hk.orTrap.sampleInterrupt hu (trapBits_sampleInterrupt_ne (.inr hi)) pc target
    | false =>
      rw [endStep_of_quiet pc target hi (pendSync_of_quiet h.keeps.2) (pendExt_of_quiet h.keeps.2)]
      exact UserKept.confinedTo (h.withPc _ |>.kept hu hb) hu hb
  · obtain ⟨hk, hne⟩ := h.kept hu hb
    rw [endStep_of_pendSync pc target h.keeps.2]
    exact trapEntry_confinedTo hk.sampleInterrupt hu (trapBits_sampleInterrupt_ne (.inl hne)) pc target

/-- Settles O60: a rule leaves only user mode's fields changed, and the end of the step only adds trap entry. -/
theorem userModeConfined : Obligations.UserModeConfined := by
  intro s t hs hu hb h
  have hconf : ConfinedTo s t := by
    obtain rfl | ⟨u, pc, target, h', rfl⟩ := step_cases hs h
    · exact (UserKept.refl userBit t).confinedTo hu hb
    · exact endStep_confinedTo hu hb h' pc target
  exact hconf

end Sys2Proof.Machine

/-! # Memory, address translation and data accesses (spec/20_memory.md) -/

namespace Sys2Proof.Machine

/-! ## Instruction fetch -/

/-- An address whose bits 1:0 are not zero is no multiple of 4 (R79, R95). -/
theorem aligned_two_of_low_ne {va : Word} (h : va.extractLsb' 0 2 ≠ 0#2) : aligned 2 va = false := by
  have hmod : ¬ va.toNat % 4 = 0 := fun e => h (BitVec.eq_of_toNat_eq (by simpa [BitVec.extractLsb'_toNat] using e))
  simpa [aligned] using hmod

theorem fetch_of_misaligned {va : Word} (s : State) (h : aligned 2 va = false) : fetch va s = .faulted .stuckFetch := by
  unfold fetch; rw [h]; rfl

/-- A step whose fetch is stuck is stuck (R95). -/
theorem step_of_stuckFetch {s : State} (hheld : s.held = false) (hf : fetch s.pc s = .faulted .stuckFetch) :
    step s = .fault .stuckFetch := by
  unfold step runStep; rw [hheld, hf]; rfl

/-- Settles O8: the pc is no multiple of 4, so the fetch is stuck, and so is the step. -/
theorem misalignedFetchStuck : Obligations.MisalignedFetchStuck := fun s hheld hpc =>
  step_of_stuckFetch hheld (fetch_of_misaligned s (aligned_two_of_low_ne hpc))

/-! ## Bytes, halfwords and words (R71, R75, R76) -/

namespace Memory

variable {m : Memory} (h : m.wf = true)
include h

/-- The bytes of a word written stand in the order of `byteOfWord`. -/
theorem byteAt_setWord_place (big : Bool) (a v : Word) {k : Nat} (hk : k < 4) :
    (m.setWord big a v).byteAt (a + BitVec.ofNat 32 k) = byteOfWord big v k := by
  rw [byteAt_setWord h]
  interval_cases k <;> simp

/-- The bytes of a halfword written: the least significant first in little-endian order, last in big-endian order. -/
theorem byteAt_setHalf_place (big : Bool) (a : Word) (v : BitVec 16) {k : Nat} (hk : k < 2) :
    (m.setHalf big a v).byteAt (a + BitVec.ofNat 32 k) = v.extractLsb' (8 * (if big then 1 - k else k)) 8 := by
  rw [byteAt_setHalf h]
  interval_cases k <;> cases big <;> simp

/-- A halfword written leaves every byte outside it alone. -/
theorem byteAt_setHalf_of_ne (big : Bool) (a : Word) (v : BitVec 16) {c : Word}
    (hc : ∀ k, k < 2 → c ≠ a + BitVec.ofNat 32 k) : (m.setHalf big a v).byteAt c = m.byteAt c := by
  have h0 : c ≠ a := by simpa using hc 0 (by decide)
  have h1 : c ≠ a + 1#32 := hc 1 (by decide)
  rw [byteAt_setHalf h, if_neg h1, if_neg h0]

/-- A word with no byte in common with a word written reads as before. -/
theorem word_setWord_of_disjoint (big : Bool) {a b : Word} (v : Word)
    (hd : ∀ j k, j < 4 → k < 4 → b + BitVec.ofNat 32 j ≠ a + BitVec.ofNat 32 k) :
    (m.setWord big a v).word big b = m.word big b := by
  have hkept : ∀ j, j < 4 → (m.setWord big a v).byteAt (b + BitVec.ofNat 32 j) = m.byteAt (b + BitVec.ofNat 32 j) :=
    fun j hj => byteAt_setWord_of_ne h _ _ _ _ fun k hk => hd j k hj hk
  have h0 : (m.setWord big a v).byteAt b = m.byteAt b := by simpa using hkept 0 (by decide)
  unfold word
  rw [h0, hkept 1 (by decide), hkept 2 (by decide), hkept 3 (by decide)]

end Memory

/-- The two bytes of a halfword put together again. -/
theorem half_append (v : BitVec 16) : v.extractLsb' 8 8 ++ v.extractLsb' 0 8 = v := by
  apply BitVec.eq_of_getLsbD_eq
  intro k hk
  rw [BitVec.getLsbD_append, BitVec.getLsbD_extractLsb', BitVec.getLsbD_extractLsb']
  by_cases hlow : k < 8
  · simp [hlow]
  · have hhigh : k - 8 < 8 := by omega
    have hplace : 8 + (k - 8) = k := by omega
    simp [hlow, hhigh, hplace]

/-- A halfword read back after it was written at the same address in the same order (R71). -/
theorem Memory.half_setHalf {m : Memory} (h : m.wf = true) (big : Bool) (a : Word) (v : BitVec 16) :
    (m.setHalf big a v).half big a = v := by
  have h0 : (m.setHalf big a v).byteAt a = v.extractLsb' (8 * (if big then 1 - 0 else 0)) 8 := by
    simpa using byteAt_setHalf_place h big a v (k := 0) (by decide)
  have h1 := byteAt_setHalf_place h big a v (k := 1) (by decide)
  unfold half
  rw [h0, h1]
  cases big <;> exact half_append v

/-- Settles O2: each width by the places of its bytes, the bytes outside it, and the canonical form each byte write keeps. -/
theorem memoryReadAfterWrite : Obligations.MemoryReadAfterWrite := by
  intro m big a v h
  refine ⟨⟨Memory.wf_setWord h .., Memory.word_setWord h .., fun k hk => Memory.byteAt_setWord_place h big a v hk,
    fun b hb => Memory.byteAt_setWord_of_ne h _ _ _ _ hb⟩, fun x => ?_, fun b => ?_⟩
  · exact ⟨Memory.wf_setHalf h .., Memory.half_setHalf h .., fun k hk => Memory.byteAt_setHalf_place h big a x hk,
      fun b hb => Memory.byteAt_setHalf_of_ne h big a x hb⟩
  · refine ⟨Memory.wf_setByte h .., ?_, fun c hc => ?_⟩
    · rw [Memory.byteAt_setByte h, if_pos rfl]
    · rw [Memory.byteAt_setByte h, if_neg hc]

/-! ## Translation (R80 to R87, R89, R102) -/

/-! ### The places of the entries (R81) -/

/-- A table's frame with an index into it, four bytes to the entry. -/
theorem frame_or_index (w : Word) (i : BitVec 10) :
    (w &&& 0xFFFFF000#32) ||| (i.setWidth 32 <<< 2) = (w.extractLsb' 12 20 ++ i ++ 0#2 : BitVec 32) := by
  apply word_ext
  intro j hj
  have hmask : ∀ j, j < 32 → (0xFFFFF000#32).getLsbD j = decide (12 ≤ j) := by decide
  refine Eq.trans (b := if j < 2 then false else if j < 12 then i.getLsbD (j - 2) else w.getLsbD j) ?_ ?_
  · rw [BitVec.getLsbD_or, BitVec.getLsbD_and, hmask j hj, BitVec.getLsbD_shiftLeft, BitVec.getLsbD_setWidth]
    by_cases h2 : j < 2
    · have : ¬ 12 ≤ j := by omega
      simp [h2, this]
    · by_cases h12 : j < 12
      · have hn : ¬ 12 ≤ j := by omega
        have hw : j - 2 < 32 := by omega
        simp [h2, h12, hn, hw, hj]
      · have hn : 12 ≤ j := by omega
        have hi : i.getLsbD (j - 2) = false := BitVec.getLsbD_of_ge _ _ (by omega)
        simp [h2, h12, hn, hi]
  · symm
    refine (BitVec.getLsbD_append (x := w.extractLsb' 12 20 ++ i) (y := 0#2) (i := j)).trans ?_
    rw [BitVec.getLsbD_append]
    by_cases h2 : j < 2
    · simp [h2]
    · by_cases h12 : j < 12
      · have hi : j - 2 < 10 := by omega
        simp [h2, h12, hi]
      · have hi : ¬ j - 2 < 10 := by omega
        have hw : j - 2 - 10 < 20 := by omega
        have hp : 12 + (j - 2 - 10) = j := by omega
        simp [h2, h12, hi, hw, hp]

/-- The directory entry stands at DTB with bits 31:22 of the address. -/
theorem pdeAddr_eq (s : State) (va : Word) :
    s.pdeAddr va = (s.dirbase.extractLsb' 12 20 ++ va.extractLsb' 22 10 ++ 0#2 : BitVec 32) := by
  have hindex : va >>> 22 = (va.extractLsb' 22 10).setWidth 32 := by
    apply word_ext
    intro j hj
    rw [BitVec.getLsbD_ushiftRight, BitVec.getLsbD_setWidth, BitVec.getLsbD_extractLsb']
    by_cases h10 : j < 10
    · simp [hj, h10]
    · have : va.getLsbD (22 + j) = false := BitVec.getLsbD_of_ge _ _ (by omega)
      simp [h10, this]
  unfold State.pdeAddr
  rw [hindex]
  exact frame_or_index _ _

/-- The page entry stands at the directory entry's frame with bits 21:12 of the address. -/
theorem pteAddr_eq (pde va : Word) :
    pteAddr pde va = (pde.extractLsb' 12 20 ++ va.extractLsb' 12 10 ++ 0#2 : BitVec 32) := by
  have hmask : ∀ j, j < 32 → (0x3FF#32).getLsbD j = decide (j < 10) := by decide
  have hindex : (va >>> 12) &&& 0x3FF#32 = (va.extractLsb' 12 10).setWidth 32 := by
    apply word_ext
    intro j hj
    rw [BitVec.getLsbD_and, hmask j hj, BitVec.getLsbD_ushiftRight, BitVec.getLsbD_setWidth, BitVec.getLsbD_extractLsb']
    by_cases h10 : j < 10 <;> simp [hj, h10]
  unfold pteAddr
  rw [hindex]
  exact frame_or_index _ _

/-! ### The accessed bits (R86) -/

/-- The page entry holds its old word with the accessed bit set. -/
theorem accessedMem_pte {s : State} (h : s.mem.wf = true) (va : Word) :
    (s.accessedMem va).word s.params.fetchBigEndian (pteAddr (s.pdeOf va) va) = s.pteOf va ||| 0x20#32 :=
  Memory.word_setWord (Memory.wf_setWord h ..) ..

/-- So does the directory entry, also where the two entries are one word. -/
theorem accessedMem_pde {s : State} (h : s.mem.wf = true) (va : Word) :
    (s.accessedMem va).word s.params.fetchBigEndian (s.pdeAddr va) = s.pdeOf va ||| 0x20#32 := by
  by_cases hsame : s.pdeAddr va = pteAddr (s.pdeOf va) va
  · have hentry : s.pdeOf va = s.pteOf va := congrArg (s.mem.word s.params.fetchBigEndian) hsame
    rw [hsame, accessedMem_pte h, hentry]
  · unfold State.accessedMem
    rw [Memory.word_setWord_of_disjoint (Memory.wf_setWord h ..) _ _ fun j k hj hk =>
      word_disjoint (pdeAddr_low s va) (pteAddr_low _ va) hsame hj hk]
    exact Memory.word_setWord h ..

/-! ### The outcomes of a translation -/

section
variable {s : State} {va : Word} {kind : AccessKind} (ha : s.ate = true)
include ha

/-- Where both entries pass and a write finds the page dirty, the walk answers the page's frame with the page offset (R87). -/
theorem translate_of_entries (hpde : s.entryPasses kind (s.pdeOf va) = true) (hpte : s.entryPasses kind (s.pteOf va) = true)
    (hdirty : kind = .write → entryDirty (s.pteOf va) = true) :
    translate va kind s = .done ((s.pteOf va).extractLsb' 12 20 ++ va.extractLsb' 0 12 : BitVec 32) (s.afterWalk va) := by
  have hclean : (kind == .write && !entryDirty (s.pteOf va)) = false := by
    cases kind with
    | write => simp [hdirty rfl]
    | _ => rfl
  rw [translate_of_ate_set ha, walk_eq, hpde, hpte, hclean, ← entryFrame_or_offset]
  rfl

/-- A directory entry that does not pass stops the walk before the page entry is read (R102). -/
theorem translate_of_pde_fails (hpde : s.entryPasses kind (s.pdeOf va) = false) :
    translate va kind s =
      raiseTranslation va kind { s with bus := readOf (s.pdeAddr va) 4 (s.pdeOf va) :: s.bus } := by
  rw [translate_of_ate_set ha, walk_eq, hpde]; rfl

/-- A page entry that does not pass stops the walk before an accessed bit is written. -/
theorem translate_of_pte_fails (hpde : s.entryPasses kind (s.pdeOf va) = true)
    (hpte : s.entryPasses kind (s.pteOf va) = false) :
    translate va kind s = raiseTranslation va kind { s with bus := s.walkReads va ++ s.bus } := by
  rw [translate_of_ate_set ha, walk_eq, hpde, hpte]; rfl

/-- A write to a page that is not dirty stops after both accessed bits are written (R86). -/
theorem translate_of_clean (hpde : s.entryPasses .write (s.pdeOf va) = true)
    (hpte : s.entryPasses .write (s.pteOf va) = true) (hclean : entryDirty (s.pteOf va) = false) :
    translate va .write s = raiseTranslation va .write (s.afterWalk va) := by
  rw [translate_of_ate_set ha, walk_eq, hpde, hpte, hclean]; rfl

end

/-- Settles O53: the places of the entries, and the state after a walk that wrote both accessed bits. -/
theorem translationSucceeds : Obligations.TranslationSucceeds := by
  intro s va kind hm
  refine ⟨pdeAddr_eq s va, fun pde => pteAddr_eq pde va, translate_of_ate_clear, fun ha hpde hpte hdirty => ?_⟩
  exact ⟨s.afterWalk va, translate_of_entries ha hpde hpte hdirty, rfl, accessedMem_wf hm va,
    fun a hb => accessedMem_byteAt ha hm hb, accessedMem_pde hm va, accessedMem_pte hm va⟩

/-- When an entry passes: present, writable where a write needs it, a user page in user mode (R83, R84, R85). -/
theorem entryPasses_iff (s : State) (kind : AccessKind) (e : Word) :
    s.entryPasses kind e = true ↔
      e.getLsbD 0 = true ∧ (kind = .write → s.psr.getLsbD 6 = true ∨ s.epsr.getLsbD 14 = true → e.getLsbD 1 = true) ∧
        (s.psr.getLsbD 6 = true → e.getLsbD 2 = true) := by
  unfold State.entryPasses entryPresent entryWritable entryUser State.user State.wp
  rw [Bool.and_eq_true, Bool.and_eq_true, and_assoc]
  refine and_congr Iff.rfl (and_congr ?_ ?_)
  · cases kind with
    | write => cases e.getLsbD 1 <;> simp
    | _ => simp
  · cases s.psr.getLsbD 6 <;> simp

/-- Settles O54: the three places where the walk stops. -/
theorem translationFaults : Obligations.TranslationFaults := by
  refine ⟨entryPasses_iff, fun s va kind ha hm => ⟨fun hpde => ?_, fun hpde hpte => ?_, ?_⟩⟩
  · refine (translate_of_pde_fails ha hpde).trans ?_
    cases kind <;> rfl
  · refine (translate_of_pte_fails ha hpde hpte).trans ?_
    cases kind <;> rfl
  · rintro rfl hpde hpte hclean
    exact ⟨s.accessedMem va, accessedMem_wf hm va, fun a hb => accessedMem_byteAt ha hm hb, accessedMem_pde hm va,
      accessedMem_pte hm va, translate_of_clean ha hpde hpte hclean⟩

/-! ## Data accesses (R79, R90, R91, R92) -/

/-! ### Taking a recorded trap (R432, R436, R450) -/

/-- The bits of psr that trap entry finds: the class bit of the trap recorded, and IN if an interrupt is recognised. -/
theorem getLsbD_sampleInterrupt_recordTrap (u : State) (c : TrapClass) (reason : TrapReason) (detail : TrapDetail) (k : Nat) :
    (u.recordTrap c reason detail).sampleInterrupt.psr.getLsbD k =
      if k = c.bit then true else if k = 9 then u.psr.getLsbD 9 || (u.intPin && u.im) else u.psr.getLsbD k := by
  have hc := c.bit_range
  have hin : 9 ≠ c.bit := by cases c <;> decide
  have hset : ∀ j, (u.recordTrap c reason detail).psr.getLsbD j = if j = c.bit then true else u.psr.getLsbD j :=
    fun j => getLsbD_setBit _ _ _ _ (by omega)
  have him : (u.recordTrap c reason detail).im = u.im := (hset 4).trans (if_neg (by omega))
  rw [getLsbD_sampleInterrupt, hset, hset, him, if_neg hin]
  by_cases h9 : k = 9
  · simp [h9, hin]
  · simp [h9]

/-- A step that recorded a trap ends by the entry of that trap; in a delay slot the return address is the slot's. -/
theorem trapTaken_endStep (u : State) (pc : Word) (target : Option Word) (c : TrapClass) (reason : TrapReason)
    (detail : TrapDetail) :
    TrapTaken u (if u.pendDslot then pc + 4#32 else pc) { cls := c, reason := reason, detail := detail }
      ((u.recordTrap c reason detail).endStep pc target) := by
  rw [endStep_of_pendSync pc target rfl]
  refine ⟨?_, fun k => ?_⟩
  · rcases sampleInterrupt_cases (u.recordTrap c reason detail) with h | h <;> rw [h] <;> rfl
  · have hbits := getLsbD_sampleInterrupt_recordTrap u c reason detail
    have hc := c.bit_range
    have him : (u.recordTrap c reason detail).sampleInterrupt.psr.getLsbD 4 = u.im := by
      rw [hbits, if_neg (by omega), if_neg (by decide)]; rfl
    have huser : (u.recordTrap c reason detail).sampleInterrupt.psr.getLsbD 6 = u.user := by
      rw [hbits, if_neg (by omega), if_neg (by decide)]; rfl
    refine (getLsbD_psrAtTrapEntry _ k).trans ?_
    rw [him, huser, hbits]

/-- The same outside a delay slot. -/
theorem traps_of_recordTrap {i : Instr} {s u : State} {c : TrapClass} {reason : TrapReason} {detail : TrapDetail}
    (hd : u.pendDslot = false) (h : exec i s = .next ((u.recordTrap c reason detail).endStep s.pc none)) :
    Traps i s u s.pc { cls := c, reason := reason, detail := detail } := by
  have htaken := trapTaken_endStep u s.pc none c reason detail
  rw [hd] at htaken
  exact ⟨_, h, htaken⟩

/-! ### The checks, in order (R91, R92) -/

theorem aligned_iff (k : Nat) (va : Word) : aligned k va = true ↔ va.toNat % 2 ^ k = 0 := by simp [aligned]

/-- The breakpoint matches when address and db name the same block of 2^k bytes (R90). -/
theorem breakMatch_iff (s : State) (k : Nat) (va : Word) : s.breakMatch k va = true ↔ va.toNat / 2 ^ k = s.db.toNat / 2 ^ k := by
  unfold State.breakMatch
  rw [beq_iff_eq, ← BitVec.toNat_inj, BitVec.toNat_ushiftRight, BitVec.toNat_ushiftRight, Nat.shiftRight_eq_div_pow,
    Nat.shiftRight_eq_div_pow]

/-- The breakpoint that data accesses of a kind look at: BW for writes, BR for reads (R90). -/
theorem breakEnabled_of_data (s : State) {kind : AccessKind} (h : kind ≠ .execute) :
    s.breakEnabled kind = if kind = .write then s.breakWrite else s.breakRead := by
  cases kind with
  | read => rfl
  | write => rfl
  | execute => exact absurd rfl h

/-- An enabled breakpoint stops a data access of 2^k bytes (R90). -/
def StopsAt (s : State) (k : Nat) (kind : AccessKind) (ea : Word) : Prop :=
  (if kind = .write then s.breakWrite else s.breakRead) = true ∧ ea.toNat / 2 ^ k = s.db.toNat / 2 ^ k

theorem break_iff_stopsAt (s : State) (k : Nat) {kind : AccessKind} (ea : Word) (h : kind ≠ .execute) :
    (s.breakEnabled kind && s.breakMatch k ea) = true ↔ StopsAt s k kind ea := by
  rw [Bool.and_eq_true, breakMatch_iff, breakEnabled_of_data s h]; rfl

/-- The instruction traps as its data access of 2^k bytes does, with every register as before: what O52 says of each. -/
def TrapsAsChecked (s : State) (k : Nat) (kind : AccessKind) (ea : Word) (i : Instr) : Prop :=
  let traps := fun (u : State) (reason : TrapReason) =>
    Traps i s u s.pc { cls := .dat, reason := reason, detail := .access ea kind }
  (ea.toNat % 2 ^ k ≠ 0 → traps s .unaligned) ∧ (ea.toNat % 2 ^ k = 0 → StopsAt s k kind ea → traps s .breakpoint) ∧
    (ea.toNat % 2 ^ k = 0 → ¬ StopsAt s k kind ea → ∀ (mem : Memory) (bus : List BusAccess),
      let u := { s with mem := mem, bus := bus }
      translate ea kind s = raise .dat .translation (.access ea kind) u → traps u .translation)

/-! ### Rules that begin with the checks -/

/-- Where the first part traps, the whole traps at the same state. -/
def Exec.TrapsWith {α β : Type} (whole : Exec β) (part : Exec α) : Prop := ∀ u, part = .trapped u → whole = .trapped u

/-- A bind traps with its first part (R13). -/
theorem Exec.trapsWith_bind {α β : Type} (x : Exec α) (k : α → State → Exec β) : (x.bind k).TrapsWith x :=
  fun u hu => by rw [hu, Exec.bind_trapped]

theorem Exec.TrapsWith.trans {α β γ : Type} {x : Exec α} {y : Exec β} {z : Exec γ} (hz : z.TrapsWith y) (hy : y.TrapsWith x) :
    z.TrapsWith x := fun u hu => hz u (hy u hu)

/-- A bind traps as the checks that its first part begins with. -/
theorem Exec.TrapsWith.bind {α β γ : Type} {x : Exec α} {y : Exec β} (h : y.TrapsWith x) (k : β → State → Exec γ) :
    (y.bind k).TrapsWith x := (Exec.trapsWith_bind y k).trans h

/-- An instruction whose rule begins with the checks of a data access traps as they do. -/
theorem trapsAsChecked_of_rule {s : State} {k : Nat} {kind : AccessKind} {ea : Word} {i : Instr} {rule : Exec Unit}
    (hd : s.pendDslot = false) (hk : kind ≠ .execute) (he : exec i s = finish s.pc rule)
    (hr : rule.TrapsWith (dataAddress k kind ea s)) : TrapsAsChecked s k kind ea i := by
  have htraps : ∀ {u : State} {reason : TrapReason}, u.pendDslot = false →
      dataAddress k kind ea s = raise .dat reason (.access ea kind) u →
      Traps i s u s.pc { cls := .dat, reason := reason, detail := .access ea kind } := fun hu hx =>
    traps_of_recordTrap hu (by rw [he, hr _ hx, finish_trapped])
  refine ⟨fun hmis => htraps hd ?_, fun hal hstop => htraps hd ?_, fun hal hstop mem bus hx => htraps hd ?_⟩
  · exact dataAddress_of_misaligned (Bool.eq_false_iff.mpr fun h => hmis ((aligned_iff k ea).mp h))
  · exact dataAddress_of_breakpoint ((aligned_iff k ea).mpr hal) ((break_iff_stopsAt s k ea hk).mpr hstop)
  · rw [← hx]
    exact dataAddress_of_checks ((aligned_iff k ea).mpr hal)
      (Bool.eq_false_iff.mpr fun h => hstop ((break_iff_stopsAt s k ea hk).mp h))

section
variable (ea : Word) (s : State)

theorem dataRead_traps (n : BusSize) : (dataRead n ea s).TrapsWith (dataAddress n.log .read ea s) := Exec.trapsWith_bind _ _

theorem dataRead64_traps : (dataRead64 ea s).TrapsWith (dataAddress 3 .read ea s) := Exec.trapsWith_bind _ _

theorem dataRead128_traps : (dataRead128 ea s).TrapsWith (dataAddress 4 .read ea s) := Exec.trapsWith_bind _ _

theorem dataWrite_traps (n : BusSize) (v : Word) : (dataWrite n ea v s).TrapsWith (dataAddress n.log .write ea s) :=
  Exec.trapsWith_bind _ _

theorem dataWrite64_traps (v : Dword) : (dataWrite64 ea v s).TrapsWith (dataAddress 3 .write ea s) := Exec.trapsWith_bind _ _

theorem dataWrite128_traps (low high : Dword) : (dataWrite128 ea low high s).TrapsWith (dataAddress 4 .write ea s) :=
  Exec.trapsWith_bind _ _

theorem loadByte_traps (dest : Reg) : (loadByte ea dest s).TrapsWith (dataAddress 0 .read ea s) := (dataRead_traps ea s .byte).bind _

theorem loadHalf_traps (dest : Reg) : (loadHalf ea dest s).TrapsWith (dataAddress 1 .read ea s) := (dataRead_traps ea s .half).bind _

theorem loadWord_traps (dest : Reg) : (loadWord ea dest s).TrapsWith (dataAddress 2 .read ea s) := (dataRead_traps ea s .word).bind _

variable (src2 fdest : Reg) (inc : Bool)

theorem fldSingle_traps : (fldSingle ea src2 fdest inc s).TrapsWith (dataAddress 2 .read ea s) := (dataRead_traps ea s .word).bind _

theorem fldDouble_traps (h : alignedFor .double fdest = true) :
    (fldDouble ea src2 fdest inc s).TrapsWith (dataAddress 3 .read ea s) := by
  unfold fldDouble; rw [h]; exact (dataRead64_traps ea s).bind _

theorem fldQuad_traps (h : alignedQuad fdest = true) : (fldQuad ea src2 fdest inc s).TrapsWith (dataAddress 4 .read ea s) := by
  unfold fldQuad; rw [h]; exact (dataRead128_traps ea s).bind _

theorem fstSingle_traps : (fstSingle ea src2 fdest inc s).TrapsWith (dataAddress 2 .write ea s) :=
  (dataWrite_traps ea s .word _).bind _

theorem fstDouble_traps (h : alignedFor .double fdest = true) :
    (fstDouble ea src2 fdest inc s).TrapsWith (dataAddress 3 .write ea s) := by
  unfold fstDouble; rw [h]; exact (dataWrite64_traps ea s _).bind _

theorem fstQuad_traps (h : alignedQuad fdest = true) : (fstQuad ea src2 fdest inc s).TrapsWith (dataAddress 4 .write ea s) := by
  unfold fstQuad; rw [h]; exact (dataWrite128_traps ea s _ _).bind _

theorem pfldSingle_traps : (pfldSingle ea src2 fdest inc s).TrapsWith (dataAddress 2 .read ea s) :=
  (dataRead_traps ea s .word).bind _

theorem pfldDouble_traps : (pfldDouble ea src2 fdest inc s).TrapsWith (dataAddress 3 .read ea s) :=
  (dataRead64_traps ea s).bind _

end

/-- A pixel size that is not the reserved one has a width (R173). -/
theorem pixelSize_isSome {ps : BitVec 2} (h : ps ≠ 3#2) : (pixelSize ps).isSome = true := by
  revert ps; decide

theorem bodyPstd_traps (fdest : Reg) (imm : BitVec 13) (src2 : Reg) (inc : Bool) {s : State}
    (h : alignedFor .double fdest = true) (hps : s.ps ≠ 3#2) :
    (bodyPstd fdest imm src2 inc s).TrapsWith (dataAddress 3 .write (s.eaImm (dispFd imm) src2) s) := by
  obtain ⟨n, hn⟩ := Option.isSome_iff_exists.mp (pixelSize_isSome hps)
  unfold bodyPstd
  rw [h, hn]
  exact Exec.trapsWith_bind _ _

/-! ### Every data access -/

/-- Settles O52: every rule of a data access begins with its checks, after the refusals of its form. -/
theorem dataCheckTraps : Obligations.DataCheckTraps := by
  intro s hd rule src1 src2 r inc
  have read {k ea i body} := @trapsAsChecked_of_rule s k .read ea i body hd (by decide)
  have write {k ea i body} := @trapsAsChecked_of_rule s k .write ea i body hd (by decide)
  refine ⟨?_, fun imm => ?_, fun imm => ?_, fun imm => ?_, fun imm => ?_⟩
  · intro ea
    exact ⟨read rfl (loadByte_traps ea s r), read rfl (loadHalf_traps ea s r), read rfl (loadWord_traps ea s r),
      read rfl (fldSingle_traps ea s src2 r inc), read rfl (pfldSingle_traps ea s src2 r inc),
      write rfl (fstSingle_traps ea s src2 r inc), read rfl (pfldDouble_traps ea s src2 r inc),
      fun h => ⟨read rfl (fldDouble_traps ea s src2 r inc h), write rfl (fstDouble_traps ea s src2 r inc h)⟩,
      fun h => ⟨read rfl (fldQuad_traps ea s src2 r inc h), write rfl (fstQuad_traps ea s src2 r inc h)⟩⟩
  · intro ea
    exact ⟨read rfl (loadByte_traps ea s r), write rfl (dataWrite_traps ea s .byte _)⟩
  · exact ⟨⟨read rfl (loadHalf_traps _ s r), write rfl (dataWrite_traps _ s .half _)⟩,
      read rfl (loadWord_traps _ s r), write rfl (dataWrite_traps _ s .word _)⟩
  · intro ea
    exact ⟨read rfl (fldSingle_traps ea s src2 r inc), read rfl (pfldSingle_traps ea s src2 r inc),
      write rfl (fstSingle_traps ea s src2 r inc)⟩
  · refine ⟨⟨read rfl (pfldDouble_traps _ s src2 r inc), fun h => ⟨read rfl (fldDouble_traps _ s src2 r inc h),
      write rfl (fstDouble_traps _ s src2 r inc h), fun hps => write rfl (bodyPstd_traps r imm src2 inc h hps)⟩⟩, ?_⟩
    exact fun h => ⟨read rfl (fldQuad_traps _ s src2 r inc h), write rfl (fstQuad_traps _ s src2 r inc h)⟩

end Sys2Proof.Machine

/-! # Encoding, decoding and the step (spec/30_encoding.md) -/

namespace Sys2Proof

/-! ## Decoding an encoded instruction (R110 to R126)

What each of the decoder's tables reads back from a word of the encoder's format; the instruction's own opcode selects the entry. -/

/-! ### The formats of the core instructions -/

theorem regForm_regWord (op : BitVec 6) (src2 dest src1 : Reg) (low : BitVec 11) (f : Reg → Reg → Reg → Instr) :
    regForm (regWord op src2 dest src1 low) f = .instr (f src1 src2 dest) := by
  unfold regForm; rw [src1Of_regWord, src2Of_regWord, destOf_regWord]

theorem immForm_immWord (op : BitVec 6) (src2 dest : Reg) (imm : BitVec 16) (f : BitVec 16 → Reg → Reg → Instr) :
    immForm (immWord op src2 dest imm) f = .instr (f imm src2 dest) := by
  unfold immForm; rw [imm16Of_immWord, src2Of_immWord, destOf_immWord]

/-- The register forms of ld.s and ld.l, told apart by bit 0 (R117). -/
theorem sizedRegForm_regWord (op : BitVec 6) (src2 dest src1 : Reg) (low : BitVec 11) (l h : Reg → Reg → Reg → Instr) :
    (if (regWord op src2 dest src1 low).getLsbD 0 then regForm (regWord op src2 dest src1 low) l
      else regForm (regWord op src2 dest src1 low) h) =
    .instr (if low.getLsbD 0 then l src1 src2 dest else h src1 src2 dest) := by
  rw [regWord_bit _ _ _ _ _ (by decide), regForm_regWord, regForm_regWord]
  split <;> rfl

/-- The immediate forms of ld.s and ld.l, told apart by bit 0 (R117). -/
theorem sizedImmForm_immWord (op : BitVec 6) (src2 dest : Reg) (imm : BitVec 15) (size : BitVec 1)
    (l h : BitVec 15 → Reg → Reg → Instr) :
    let w := immWord op src2 dest (imm ++ size)
    (if w.getLsbD 0 then .instr (l (w.extractLsb' 1 15) (src2Of w) (destOf w))
      else .instr (h (w.extractLsb' 1 15) (src2Of w) (destOf w))) =
    Decoded.instr (if size.getLsbD 0 then l imm src2 dest else h imm src2 dest) := by
  intro w
  rw [immWord_bit _ _ _ _ (by decide), bit_zero_append, immWord_low _ _ _ _ (by decide), disp15_of_imm16, src2Of_immWord,
    destOf_immWord]
  split <;> rfl

/-- st.s and st.l, told apart by bit 0 (R117). -/
theorem sizedSplitForm_splitWord (op : BitVec 6) (src2 src1 : Reg) (imm : BitVec 15) (size : BitVec 1)
    (l h : Reg → BitVec 15 → Reg → Instr) :
    let w := splitWord op src2 src1 (imm ++ size)
    (if w.getLsbD 0 then .instr (l (src1Of w) (split15Of w) (src2Of w)) else .instr (h (src1Of w) (split15Of w) (src2Of w))) =
    Decoded.instr (if size.getLsbD 0 then l src1 imm src2 else h src1 imm src2) := by
  intro w
  rw [splitWord_bit_zero, split15Of_splitWord, src1Of_splitWord, src2Of_splitWord]
  split <;> rfl

/-- The floating-point loads and stores of a register form, by size (R119). -/
theorem fmemReg_regWord (op : BitVec 6) (src2 dest src1 : Reg) (size : BitVec 2) (inc : Bool)
    (d l : Reg → Reg → Reg → Bool → Instr) (q : Decoded) :
    fmemReg (regWord op src2 dest src1 (fmemLow size inc)) d l q =
      if size.getLsbD 0 then .instr (l src1 src2 dest inc)
      else if size.getLsbD 1 then q else .instr (d src1 src2 dest inc) := by
  obtain ⟨h1, h2, h0⟩ := fmemLow_bits size inc
  unfold fmemReg
  rw [regWord_bit _ _ _ _ _ (by decide), regWord_bit _ _ _ _ _ (by decide), regWord_bit _ _ _ _ _ (by decide), h0, h1, h2,
    src1Of_regWord, src2Of_regWord, destOf_regWord]

/-- The quad form of a register-form floating-point load or store. -/
theorem quadReg_regWord (op : BitVec 6) (src2 dest src1 : Reg) (size : BitVec 2) (inc : Bool)
    (f : Reg → Reg → Reg → Bool → Instr) :
    let w := regWord op src2 dest src1 (fmemLow size inc)
    Decoded.instr (f (src1Of w) (src2Of w) (destOf w) (w.getLsbD 0)) = .instr (f src1 src2 dest inc) := by
  intro w
  rw [src1Of_regWord, src2Of_regWord, destOf_regWord, regWord_bit _ _ _ _ _ (by decide), (fmemLow_bits size inc).2.2]

/-- The floating-point loads and stores of an immediate form with 8 or 16 bytes, by size (R119). -/
theorem fmemImm_immWord (op : BitVec 6) (src2 dest : Reg) (imm : BitVec 13) (size : BitVec 2) (inc : Bool)
    (d : BitVec 13 → Reg → Reg → Bool → Instr) (l : BitVec 14 → Reg → Reg → Bool → Instr) (q : Decoded)
    (h : size.getLsbD 0 = false) :
    fmemImm (immWord op src2 dest (imm ++ size ++ BitVec.ofBool inc)) d l q =
      if size.getLsbD 1 then q else .instr (d imm src2 dest inc) := by
  have h1 := (immWord_bit op src2 dest _ (by decide)).trans ((imm16_bit1_of_size imm size (BitVec.ofBool inc)).trans h)
  have h2 := (immWord_bit op src2 dest _ (by decide)).trans (imm16_bit2_of_size imm size (BitVec.ofBool inc))
  unfold fmemImm
  rw [h1, h2, immWord_bit _ _ _ _ (by decide), bit_zero_ofBool, immWord_low _ _ _ _ (by decide),
    immWord_low _ _ _ _ (by decide), disp13_of_imm16, src2Of_immWord, destOf_immWord]
  rfl

/-- The floating-point loads and stores of an immediate form with 4 bytes (R119). -/
theorem fmemImm_immWord_long (op : BitVec 6) (src2 dest : Reg) (imm : BitVec 14) (inc : Bool)
    (d : BitVec 13 → Reg → Reg → Bool → Instr) (l : BitVec 14 → Reg → Reg → Bool → Instr) (q : Decoded) :
    fmemImm (immWord op src2 dest (imm ++ 1#1 ++ BitVec.ofBool inc)) d l q = .instr (l imm src2 dest inc) := by
  unfold fmemImm
  rw [immWord_bit _ _ _ _ (by decide), imm16_bit1_of_long, if_pos (by decide), immWord_bit _ _ _ _ (by decide),
    bit_zero_ofBool, immWord_low _ _ _ _ (by decide), disp14_of_imm16, src2Of_immWord, destOf_immWord]

/-- The 13-bit displacement form: pst.d, and the quad form of an immediate-form floating-point load or store. -/
theorem dispImm_immWord (op : BitVec 6) (src2 dest : Reg) (imm : BitVec 13) (size : BitVec 2) (inc : Bool)
    (f : BitVec 13 → Reg → Reg → Bool → Instr) :
    let w := immWord op src2 dest (imm ++ size ++ BitVec.ofBool inc)
    Decoded.instr (f (w.extractLsb' 3 13) (src2Of w) (destOf w) (w.getLsbD 0)) = .instr (f imm src2 dest inc) := by
  intro w
  rw [immWord_low _ _ _ _ (by decide), disp13_of_imm16, src2Of_immWord, destOf_immWord, immWord_bit _ _ _ _ (by decide),
    bit_zero_ofBool]

/-- pst.d, whose size bits are clear (R173). -/
theorem pstForm_immWord (op : BitVec 6) (src2 dest : Reg) (imm : BitVec 13) (inc : Bool) :
    let w := immWord op src2 dest (imm ++ 0#2 ++ BitVec.ofBool inc)
    (if w.getLsbD 1 || w.getLsbD 2 then .reserved .pstNotDouble false
      else Decoded.instr (.pstd (destOf w) (w.extractLsb' 3 13) (src2Of w) (w.getLsbD 0))) =
    .instr (.pstd dest imm src2 inc) := by
  intro w
  have h1 : w.getLsbD 1 = false := (immWord_bit _ _ _ _ (by decide)).trans (imm16_bit1_of_size _ _ _)
  have h2 : w.getLsbD 2 = false := (immWord_bit _ _ _ _ (by decide)).trans (imm16_bit2_of_size _ _ _)
  rw [h1, h2]
  exact dispImm_immWord _ _ _ _ _ _ fun imm src2 dest inc => .pstd dest imm src2 inc

/-- flush, whose auto-increment bit stands under its 15-bit displacement (R174). -/
theorem flushForm_immWord (op : BitVec 6) (src2 dest : Reg) (imm : BitVec 15) (inc : Bool) :
    let w := immWord op src2 dest (imm ++ BitVec.ofBool inc)
    Instr.flush (w.extractLsb' 1 15) (src2Of w) (destOf w) (w.getLsbD 0) = .flush imm src2 dest inc := by
  intro w
  rw [immWord_low _ _ _ _ (by decide), disp15_of_imm16, src2Of_immWord, destOf_immWord, immWord_bit _ _ _ _ (by decide),
    bit_zero_ofBool]

/-- The short branches, whose fields are src1 (or const5), src2 and the split offset. -/
theorem branchForm_splitWord (op : BitVec 6) (src2 src1 : Reg) (off : BitVec 16) (f : Reg → Reg → BitVec 16 → Instr) :
    let w := splitWord op src2 src1 off
    Decoded.instr (f (src1Of w) (src2Of w) (split16Of w)) = .instr (f src1 src2 off) := by
  intro w
  rw [src1Of_splitWord, src2Of_splitWord, split16Of_splitWord]

/-- A word of the core-escape format is looked up in the core-escape table (R123). -/
theorem decodeWord_coreEscapeWord (src1 : Reg) (code : BitVec 3) :
    decodeWord (coreEscapeWord src1 code) = decodeCoreEscape (coreEscapeWord src1 code) := by
  unfold decodeWord; rw [primaryOf_coreEscapeWord]; rfl

/-! ### The FP-escape format -/

/-- A word of the FP-escape format is looked up in the floating-point-escape table (R124). -/
theorem decodeWord_fpWord (src2 dest src1 : Reg) (p d s r : Bool) (op : BitVec 7) :
    decodeWord (fpWord src2 dest src1 p d s r op) = decodeFp (fpWord src2 dest src1 p d s r op) := by
  unfold decodeWord; rw [primaryOf_fpWord]; rfl

/-- An FP opcode above those of the dual operations is looked up in the rest of the table (R126). -/
theorem decodeFp_of_op {w : Word} {op : BitVec 7} (hop : w.extractLsb' 0 7 = op) (h : 2#3 ≤ op.extractLsb' 4 3) :
    decodeFp w = decodeFpUpper w := by
  have hkind : w.extractLsb' 4 3 = op.extractLsb' 4 3 := by
    rw [← hop]
    refine BitVec.eq_of_getLsbD_eq fun j hj => ?_
    rw [BitVec.getLsbD_extractLsb', BitVec.getLsbD_extractLsb', BitVec.getLsbD_extractLsb']
    have h7 : 4 + j < 7 := by omega
    simp [h7]
  unfold decodeFp
  rw [hkind]
  split
  · next e => rw [e] at h; exact absurd h (by decide)
  · next e => rw [e] at h; exact absurd h (by decide)
  · rfl

/-- So is an encoded one. -/
theorem decodeWord_fpWord_upper (src2 dest src1 : Reg) (p d s r : Bool) {op : BitVec 7} (h : 2#3 ≤ op.extractLsb' 4 3) :
    decodeWord (fpWord src2 dest src1 p d s r op) = decodeFpUpper (fpWord src2 dest src1 p d s r op) :=
  (decodeWord_fpWord ..).trans (decodeFp_of_op (opOf_fpWord ..) h)

theorem byP_fpWord (src2 dest src1 : Reg) (p d s r : Bool) (op : BitVec 7) (x y : Decoded) :
    byP (fpWord src2 dest src1 p d s r op) x y = if p then x else y := by
  unfold byP; rw [bit10_fpWord]

@[simp] theorem fp3Of_fp3Word (p : Bool) (op : BitVec 7) (o : Fp3) : fp3Of (fp3Word p op o) = o := by
  simp only [fp3Of, fp3Word, src1Of_fpWord, src2Of_fpWord, destOf_fpWord, bit9_fpWord, bit8_fpWord, bit7_fpWord, precOf_bit]

@[simp] theorem fp2Of_fp2Word (p : Bool) (op : BitVec 7) (o : Fp2) : fp2Of (fp2Word p op o) = o := by
  simp only [fp2Of, fp2Word, src1Of_fpWord, destOf_fpWord, bit9_fpWord, bit8_fpWord, bit7_fpWord, precOf_bit]

@[simp] theorem fp2Src2Of_fp2Src2Word (op : BitVec 7) (o : Fp2) : fp2Src2Of (fp2Src2Word op o) = o := by
  simp only [fp2Src2Of, fp2Src2Word, src2Of_fpWord, destOf_fpWord, bit9_fpWord, bit8_fpWord, bit7_fpWord, precOf_bit]

@[simp] theorem fpDdOf_fpWord (p s r : Bool) (op : BitVec 7) (o : FpDd) :
    fpDdOf (fpWord o.src2 o.dest o.src1 p o.d s r op) = o := by
  simp only [fpDdOf, src1Of_fpWord, src2Of_fpWord, destOf_fpWord, bit9_fpWord]

@[simp] theorem fpCmpOf_fpWord (p r : Bool) (op : BitVec 7) (o : FpCmp) :
    fpCmpOf (fpWord o.src2 o.dest o.src1 p o.d o.s.bit r op) = o := by
  simp only [fpCmpOf, src1Of_fpWord, src2Of_fpWord, destOf_fpWord, bit9_fpWord, bit8_fpWord, precOf_bit]

@[simp] theorem fpXfrOf_fpWord (src2 : Reg) (p s r : Bool) (op : BitVec 7) (o : FpXfr) :
    fpXfrOf (fpWord src2 o.dest o.src p o.d s r op) = o := by
  simp only [fpXfrOf, src1Of_fpWord, destOf_fpWord, bit9_fpWord]

/-- The entry of an `Fp3` instruction with a scalar and a pipelined form (R121). -/
theorem byP_fp3Word (p : Bool) (op : BitVec 7) (o : Fp3) (f g : Fp3 → Instr) :
    byP (fp3Word p op o) (.instr (f (fp3Of (fp3Word p op o)))) (.instr (g (fp3Of (fp3Word p op o)))) =
      .instr (if p then f o else g o) := by
  rw [fp3Of_fp3Word, fp3Word, byP_fpWord]; split <;> rfl

/-- The same of an `Fp2` instruction. -/
theorem byP_fp2Word (p : Bool) (op : BitVec 7) (o : Fp2) (f g : Fp2 → Instr) :
    byP (fp2Word p op o) (.instr (f (fp2Of (fp2Word p op o)))) (.instr (g (fp2Of (fp2Word p op o)))) =
      .instr (if p then f o else g o) := by
  rw [fp2Of_fp2Word, fp2Word, byP_fpWord]; split <;> rfl

/-- The entry of a dual operation, whose opcode holds DPC (R380). -/
theorem byP_dualWord (p : Bool) (kind : BitVec 3) (dpc : BitVec 4) (o : Fp3) (f g : BitVec 4 → Fp3 → Instr) :
    let w := fp3Word p (kind ++ dpc) o
    byP w (.instr (f (w.extractLsb' 0 4) (fp3Of w))) (.instr (g (w.extractLsb' 0 4) (fp3Of w))) =
      .instr (if p then f dpc o else g dpc o) := by
  intro w
  have hdpc : w.extractLsb' 0 4 = dpc := (fpWord_low _ _ _ _ _ _ _ _ (by decide)).trans (dualOp_dpc kind dpc)
  rw [hdpc, fp3Of_fp3Word]
  refine (byP_fpWord ..).trans ?_
  split <;> rfl

/-- The upper bits of a dual operation's opcode (R380). -/
theorem dualKind_fp3Word (p : Bool) (kind : BitVec 3) (dpc : BitVec 4) (o : Fp3) :
    (fp3Word p (kind ++ dpc) o).extractLsb' 4 3 = kind :=
  (fpWord_low _ _ _ _ _ _ _ _ (by decide)).trans (dualOp_kind kind dpc)

/-- Settles O4: each instruction's opcode selects its entry, whose operands are read back by the lemma of its format. -/
theorem decodeEncode : Obligations.DecodeEncode := by
  intro i
  cases i with
  | ldbR | trap | adduR | subuR | addsR | subsR | shlR | shrR | shraR | andR | andnotR | orR | xorR | shrd =>
    rw [encode, decodeWord, primaryOf_regWord]
    exact regForm_regWord ..
  | ldbI | adduI | subuI | addsI | subsI | shlI | shrI | shraI | andI | andnotI | orI | xorI | andh | andnoth | orh | xorh =>
    rw [encode, decodeWord, primaryOf_immWord]
    exact immForm_immWord ..
  | ldsR | ldlR =>
    rw [encode, decodeWord, primaryOf_regWord]
    exact sizedRegForm_regWord ..
  | ldsI | ldlI =>
    rw [encode, decodeWord, primaryOf_immWord]
    exact sizedImmForm_immWord ..
  | sts | stl =>
    rw [encode, decodeWord, primaryOf_splitWord]
    exact sizedSplitForm_splitWord ..
  | stb =>
    rw [encode, decodeWord, primaryOf_splitWord]
    exact branchForm_splitWord _ _ _ _ fun src1 src2 off => .stb src1 off src2
  | btneR | btneI | bteR | bteI | bla =>
    rw [encode, decodeWord, primaryOf_splitWord]
    exact branchForm_splitWord ..
  | flddR | fldlR | fstdR | fstlR | pflddR | pfldlR =>
    rw [encode, decodeWord, primaryOf_regWord]
    exact fmemReg_regWord ..
  | fldqR | fstqR =>
    rw [encode, decodeWord, primaryOf_regWord]
    exact (fmemReg_regWord ..).trans (quadReg_regWord ..)
  | flddI | fstdI | pflddI =>
    rw [encode, decodeWord, primaryOf_immWord]
    exact fmemImm_immWord _ _ _ _ _ _ _ _ _ rfl
  | fldqI | fstqI =>
    rw [encode, decodeWord, primaryOf_immWord]
    exact (fmemImm_immWord _ _ _ _ _ _ _ _ _ rfl).trans (dispImm_immWord ..)
  | fldlI | fstlI | pfldlI =>
    rw [encode, decodeWord, primaryOf_immWord]
    exact fmemImm_immWord_long ..
  | ixfr | ldc | stc | bri =>
    rw [encode, decodeWord, primaryOf_regWord]
    refine congrArg Decoded.instr ?_
    simp only [src1Of_regWord, src2Of_regWord, destOf_regWord]
  | flush =>
    rw [encode, decodeWord, primaryOf_immWord]
    exact congrArg Decoded.instr (flushForm_immWord ..)
  | pstd =>
    rw [encode, decodeWord, primaryOf_immWord]
    exact pstForm_immWord ..
  | br | call | bc | bct | bnc | bnct =>
    rw [encode, decodeWord, primaryOf_lbrWord]
    exact congrArg Decoded.instr (congrArg _ (lbroffOf_lbrWord ..))
  | lock | intovr | unlock =>
    rw [encode, decodeWord_coreEscapeWord, decodeCoreEscape, codeOf_coreEscapeWord]
    rfl
  | calli =>
    rw [encode, decodeWord_coreEscapeWord, decodeCoreEscape, codeOf_coreEscapeWord]
    exact congrArg Decoded.instr (congrArg _ (src1Of_coreEscapeWord ..))
  | pfam | pfsm | pfmam | pfmsm =>
    rw [encode, fp3Word, decodeWord_fpWord, decodeFp, ← fp3Word, dualKind_fp3Word]
    exact byP_dualWord ..
  | fmul | pfmul | fadd | pfadd | fsub | pfsub | fiadd | pfiadd | fisub | pfisub | faddp | pfaddp | faddz | pfaddz
  | fzchkl | pfzchkl | fzchks | pfzchks =>
    rw [encode, fp3Word, decodeWord_fpWord_upper _ _ _ _ _ _ _ (by decide), decodeFpUpper, opOf_fpWord]
    exact byP_fp3Word ..
  | fix | pfix | famov | pfamov | ftrunc | pftrunc | form | pform =>
    rw [encode, fp2Word, decodeWord_fpWord_upper _ _ _ _ _ _ _ (by decide), decodeFpUpper, opOf_fpWord]
    exact byP_fp2Word ..
  | frcp | frsqr =>
    rw [encode, fp2Src2Word, decodeWord_fpWord_upper _ _ _ _ _ _ _ (by decide), decodeFpUpper, opOf_fpWord]
    exact (byP_fpWord ..).trans (congrArg Decoded.instr (congrArg _ (fp2Src2Of_fp2Src2Word ..)))
  | fxfr =>
    rw [encode, decodeWord_fpWord_upper _ _ _ _ _ _ _ (by decide), decodeFpUpper, opOf_fpWord]
    exact (byP_fpWord ..).trans (congrArg Decoded.instr (congrArg _ (fpXfrOf_fpWord ..)))
  | fmlow | pfmul3 =>
    rw [encode, decodeWord_fpWord_upper _ _ _ _ _ _ _ (by decide), decodeFpUpper, opOf_fpWord, bit10_fpWord, bit8_fpWord,
      bit7_fpWord]
    exact congrArg Decoded.instr (congrArg _ (fpDdOf_fpWord ..))
  | pfgt | pfle =>
    rw [encode, decodeWord_fpWord_upper _ _ _ _ _ _ _ (by decide), decodeFpUpper, opOf_fpWord, bit7_fpWord]
    exact (byP_fpWord ..).trans (congrArg Decoded.instr (congrArg _ (fpCmpOf_fpWord ..)))
  | pfeq =>
    rw [encode, fp3Word, decodeWord_fpWord_upper _ _ _ _ _ _ _ (by decide), decodeFpUpper, opOf_fpWord]
    exact (byP_fpWord ..).trans (congrArg Decoded.instr (congrArg _ (fp3Of_fp3Word ..)))

end Sys2Proof

namespace Sys2Proof.Machine

/-! ## Words written out, and displacements (R117 to R119, R125, R126) -/

/-- Settles O3: the decoder evaluated at the eight words. -/
theorem sampleWords : Obligations.SampleWords := by
  unfold Obligations.SampleWords
  decide

/-- The bits of a mask that clears the low bits of an access size, of at most 16 bytes. -/
theorem getLsbD_clearMask : ∀ k, k ≤ 4 → ∀ j, j < 32 → (~~~((1#32 <<< k) - 1#32)).getLsbD j = decide (k ≤ j) := by decide

/-- A displacement depends only on the bits above those its access size clears (R118). -/
theorem clearLow_sext16_congr {k : Nat} (hk : k ≤ 4) {a b : BitVec 16} (h : ∀ j, k ≤ j → a.getLsbD j = b.getLsbD j) :
    clearLow k (sext16 a) = clearLow k (sext16 b) := by
  refine word_ext fun j hj => ?_
  unfold clearLow sext16
  rw [BitVec.getLsbD_and, BitVec.getLsbD_and, getLsbD_clearMask k hk j hj]
  by_cases hkj : k ≤ j
  · have hmsb : a.msb = b.msb := by rw [BitVec.msb_eq_getLsbD_last, BitVec.msb_eq_getLsbD_last]; exact h 15 (by omega)
    rw [BitVec.getLsbD_signExtend, BitVec.getLsbD_signExtend, h j hkj, hmsb]
  · simp [hkj]

/-- The bits that stand above the size bits of an immediate do not depend on them. -/
theorem getLsbD_append_above {m n : Nat} (imm : BitVec m) (x y : BitVec n) {j : Nat} (h : n ≤ j) :
    (imm ++ x).getLsbD j = (imm ++ y).getLsbD j :=
  (bit_in_high imm x h).trans (bit_in_high imm y h).symm

/-- Settles O15: the bits of the immediate that the model does not keep are among those the access size clears. -/
theorem displacements : Obligations.Displacements := by
  refine ⟨fun imm => rfl, fun imm size => ⟨?_, ?_, ?_⟩, fun imm low => ?_, fun imm low => ⟨?_, ?_⟩⟩
  · exact clearLow_sext16_congr (k := 1) (by decide) fun j hj => getLsbD_append_above imm _ _ (by omega)
  · exact clearLow_sext16_congr (k := 2) (by decide) fun j hj => getLsbD_append_above imm _ _ (by omega)
  · exact clearLow_sext16_congr (k := 4) (by decide) fun j hj => getLsbD_append_above imm _ _ (by omega)
  · exact clearLow_sext16_congr (k := 2) (by decide) fun j hj => getLsbD_append_above imm _ _ (by omega)
  · exact clearLow_sext16_congr (k := 3) (by decide) fun j hj => getLsbD_append_above imm _ _ (by omega)
  · exact clearLow_sext16_congr (k := 4) (by decide) fun j hj => getLsbD_append_above imm _ _ (by omega)

/-! ## The step (R94, R127, R132) -/

/-- A step with HOLD and RESET not asserted runs the word its fetch answers (R132). -/
theorem step_of_fetch_done {s t : State} {w : Word} (hheld : s.held = false) (hf : fetch s.pc s = .done w t) :
    step s = runDecoded w t := by
  unfold step runStep
  rw [hheld, hf]; rfl

/-- A step whose fetch traps ends with that trap (R132). -/
theorem step_of_fetch_trapped {s t : State} (hheld : s.held = false) (hf : fetch s.pc s = .trapped t) :
    step s = .next (t.endStep s.pc none) := by
  unfold step runStep
  rw [hheld, hf]; rfl

theorem runDecoded_of_instr {w : Word} {i : Instr} (h : decodeWord w = .instr i) (s : State) : runDecoded w s = exec i s := by
  unfold runDecoded; rw [h]

theorem runDecoded_of_undefined {w : Word} (h : decodeWord w = .undefined) (s : State) :
    runDecoded w s = finish s.pc (raise .it .undefinedOpcode (.word w) s) := by
  unfold runDecoded; rw [h]

theorem runDecoded_of_reserved {w : Word} {form : ReservedForm} {d : Bool} (h : decodeWord w = .reserved form d) (s : State) :
    runDecoded w s =
      if form.isFp then finish s.pc (fpEscape d (fun _ => .refused (.reservedForm form)) s)
      else .refused (.reservedForm form) := by
  unfold runDecoded; rw [h]

/-- The fetch from an aligned address, where the translation answers (R94). -/
theorem fetch_of_translate_done {va pa : Word} {s t : State} (ha : aligned 2 va = true)
    (ht : translate va .execute s = .done pa t) :
    fetch va s =
      .done (t.mem.word s.params.fetchBigEndian pa)
        { t with
          bus := readOf pa 4 (t.mem.word s.params.fetchBigEndian pa) :: t.bus
          fetched := t.mem.word s.params.fetchBigEndian pa } := by
  unfold fetch
  rw [ha, ht]; rfl

/-- The fetch from an aligned address, where the translation traps (R94). -/
theorem fetch_of_translate_trapped {va : Word} {s t : State} (ha : aligned 2 va = true)
    (ht : translate va .execute s = .trapped t) : fetch va s = .trapped t := by
  unfold fetch
  rw [ha, ht]; rfl

/-- A fetch leaves the pc and the mark of a delay slot's trap as they were. -/
theorem pc_pendDslot_of_fetch {va w : Word} {s t : State} (h : fetch va s = .done w t) :
    t.pc = s.pc ∧ t.pendDslot = s.pendDslot := by
  obtain ⟨pa, u, _, ht, _, rfl⟩ := fetch_eq_done h
  rcases translate_eq_done ht with ⟨_, _, rfl⟩ | ⟨_, _, rfl⟩ <;> exact ⟨rfl, rfl⟩

/-- A step that ends with a recorded trap outside a delay slot takes it at `pc` (R432, R450). -/
theorem trapTaken_of_recordTrap {u : State} (hd : u.pendDslot = false) (pc : Word) (target : Option Word) (c : TrapClass)
    (reason : TrapReason) (detail : TrapDetail) :
    TrapTaken u pc { cls := c, reason := reason, detail := detail } ((u.recordTrap c reason detail).endStep pc target) := by
  have htaken := trapTaken_endStep u pc target c reason detail
  rw [hd] at htaken
  exact htaken

/-- Settles O6: the fetch in its three outcomes, and the step after each. -/
theorem stepRunsDecoded : Obligations.StepRunsDecoded := by
  intro s i hheld
  have hrun : ∀ {w t}, fetch s.pc s = .done w t → decodeWord w = .instr i → step s = exec i t := fun hf hw =>
    (step_of_fetch_done hheld hf).trans (runDecoded_of_instr hw _)
  refine ⟨fun w t hf hw => ⟨fetched_of_fetch hf, hrun hf hw⟩, fun hpc pa t ht => ?_, fun hpc hd mem bus => ?_,
    fun hate hpc hbytes => ?_⟩
  · have hf := fetch_of_translate_done ((aligned_iff 2 s.pc).mpr hpc) ht
    exact ⟨hf, hrun hf⟩
  · intro u ht
    have hf := fetch_of_translate_trapped ((aligned_iff 2 s.pc).mpr hpc) ht
    exact ⟨_, step_of_fetch_trapped hheld hf, trapTaken_of_recordTrap (u := u) hd s.pc none _ _ _⟩
  · have hf := fetch_of_translate_done ((aligned_iff 2 s.pc).mpr hpc) (translate_of_ate_clear hate)
    exact hrun hf (congrArg Prod.fst (Option.some.inj hbytes))

/-- Settles O7: the undefined opcode raises its trap at the state the fetch left. -/
theorem undefinedOpcodeTraps : Obligations.UndefinedOpcodeTraps := by
  intro s t w hheld hd hf hw
  obtain ⟨hpc, hslot⟩ := pc_pendDslot_of_fetch hf
  refine ⟨_, (step_of_fetch_done hheld hf).trans (runDecoded_of_undefined hw t), ?_⟩
  rw [hpc]
  exact trapTaken_of_recordTrap (hslot.trans hd) s.pc none _ _ _

/-! ## The end of the step (R132, R441, R450) -/

/-- An interrupt recognised with no trap pending: the entry's state (R450). -/
theorem endStep_interrupt_state {s : State} (savepc : Word) (target : Option Word) (hsync : s.pendSync = false)
    (hint : (s.intPin && s.im) = true) :
    s.endStep savepc target =
      { s with
        pc := s.params.trapVector, fir := target.getD (savepc + 4#32), firTrap := true
        psr := psrAtTrapEntry s.sampleInterrupt.psr, pendDslot := false, pendExt := false } := by
  have hsample : s.sampleInterrupt = { s with psr := s.sampleInterrupt.psr, pendExt := true } := by
    unfold State.sampleInterrupt; rw [hint]; rfl
  have hfir : s.sampleInterrupt.firAtTrapEntry savepc target = target.getD (savepc + 4#32) := by
    rw [hsample]; unfold State.firAtTrapEntry; dsimp only; rw [hsync]; rfl
  rw [endStep_of_interrupt savepc target hint]
  unfold State.trapEntry
  rw [hfir, hsample, hsync]

/-- psr after an interrupt taken with no trap pending (R450). -/
theorem getLsbD_psr_of_interrupt {s : State} (hint : (s.intPin && s.im) = true) (k : Nat) :
    (psrAtTrapEntry s.sampleInterrupt.psr).getLsbD k =
      if k = 4 ∨ k = 6 ∨ k = 13 ∨ k = 14 then false
      else if k = 5 then s.im else if k = 7 then s.user else if k = 9 then true else s.psr.getLsbD k := by
  rw [getLsbD_psrAtTrapEntry, getLsbD_sampleInterrupt, getLsbD_sampleInterrupt, getLsbD_sampleInterrupt, hint, Bool.or_true]
  rfl

/-- Settles O55: the three ways a step ends, each with its state. -/
theorem endOfStep : Obligations.EndOfStep := by
  intro s savepc target
  refine ⟨fun hsync hext hint => endStep_of_quiet savepc target hint hsync hext, fun hsync hint => ?_,
    fun c reason detail hd => trapTaken_of_recordTrap hd savepc target c reason detail⟩
  dsimp only
  rw [endStep_interrupt_state savepc target hsync hint]
  exact ⟨by rw [hsync], getLsbD_psr_of_interrupt hint⟩

/-! ## FP-escape instructions and the kill of the next one (R122, R131, R133) -/

/-- An FP-escape instruction executes its rule through `fpEscape` with its word's D bit; the words of the core instructions
have another primary opcode (R131). -/
theorem exec_of_fp {i : Instr} (h : (opFlags (encode i)).fp = true) (s : State) :
    ∃ d body, (encode i).getLsbD 9 = d ∧ exec i s = finish s.pc (fpEscape d body s) := by
  cases i with
  | pfam | pfsm | pfmam | pfmsm | fmul | pfmul | fmlow | frcp | frsqr | pfmul3 | fadd | pfadd | fsub | pfsub | fix | pfix
  | famov | pfamov | ftrunc | pftrunc | pfgt | pfle | pfeq | fxfr | fiadd | pfiadd | fisub | pfisub | faddp | pfaddp | faddz
  | pfaddz | fzchkl | pfzchkl | form | pform | fzchks | pfzchks => exact ⟨_, _, bit9_fpWord .., rfl⟩
  | _ =>
    simp only [opFlags, encode, primaryOf_regWord, primaryOf_immWord, primaryOf_splitWord, primaryOf_lbrWord,
      primaryOf_coreEscapeWord] at h
    exact absurd h (by decide)

theorem suppressedFrom_clearKNF (s : State) : SuppressedFrom s s.clearKNF :=
  ⟨State.knf_clearKNF s, fun _ hk => getLsbD_setBit_ne _ _ _ _ (by decide) hk, fun _ => rfl, rfl⟩

end Sys2Proof.Machine

namespace Sys2Proof

/-! ## The words of a form that no instruction has (R129) -/

/-! ### Loads and stores -/

/-- The size field of a floating-point load or store, bit by bit (R119). -/
theorem size_bits (w : Word) :
    (w.extractLsb' 1 2).getLsbD 0 = w.getLsbD 1 ∧ (w.extractLsb' 1 2).getLsbD 1 = w.getLsbD 2 := by
  rw [BitVec.getLsbD_extractLsb', BitVec.getLsbD_extractLsb']
  exact ⟨rfl, rfl⟩

/-- The size field names 16 bytes (R119). -/
theorem size_eq_quad_iff (w : Word) : w.extractLsb' 1 2 = 2#2 ↔ w.getLsbD 1 = false ∧ w.getLsbD 2 = true := by
  obtain ⟨h1, h2⟩ := size_bits w
  rw [← h1, ← h2]
  generalize w.extractLsb' 1 2 = size
  revert size; decide

/-- The size field names no 8 bytes (R119). -/
theorem size_ne_double_iff (w : Word) : w.extractLsb' 1 2 ≠ 0#2 ↔ (w.getLsbD 1 || w.getLsbD 2) = true := by
  obtain ⟨h1, h2⟩ := size_bits w
  rw [← h1, ← h2]
  generalize w.extractLsb' 1 2 = size
  revert size; decide

/-- A floating-point load or store of a register form is reserved when its size is .q and its quad form is. -/
theorem fmemReg_eq_reserved_iff (w : Word) (d l : Reg → Reg → Reg → Bool → Instr) (q : Decoded) (form : ReservedForm) (b : Bool) :
    fmemReg w d l q = .reserved form b ↔ w.extractLsb' 1 2 = 2#2 ∧ q = .reserved form b := by
  rw [size_eq_quad_iff]
  unfold fmemReg
  split
  · next h => simp [h]
  · split
    · next h1 h2 => rw [Bool.eq_false_iff.mpr h1, h2]; simp
    · next h1 h2 => exact ⟨nofun, fun hq => absurd hq.1.2 h2⟩

/-- The same of an immediate form. -/
theorem fmemImm_eq_reserved_iff (w : Word) (d : BitVec 13 → Reg → Reg → Bool → Instr) (l : BitVec 14 → Reg → Reg → Bool → Instr)
    (q : Decoded) (form : ReservedForm) (b : Bool) :
    fmemImm w d l q = .reserved form b ↔ w.extractLsb' 1 2 = 2#2 ∧ q = .reserved form b := by
  rw [size_eq_quad_iff]
  unfold fmemImm
  split
  · next h => simp [h]
  · split
    · next h1 h2 => rw [Bool.eq_false_iff.mpr h1, h2]; simp
    · next h1 h2 => exact ⟨nofun, fun hq => absurd hq.1.2 h2⟩

theorem fmemReg_instr_ne_reserved (w : Word) (d l : Reg → Reg → Reg → Bool → Instr) (i : Instr) (form : ReservedForm) (b : Bool) :
    fmemReg w d l (.instr i) ≠ .reserved form b :=
  fun h => nomatch ((fmemReg_eq_reserved_iff ..).mp h).2

theorem fmemImm_instr_ne_reserved (w : Word) (d : BitVec 13 → Reg → Reg → Bool → Instr)
    (l : BitVec 14 → Reg → Reg → Bool → Instr) (i : Instr) (form : ReservedForm) (b : Bool) :
    fmemImm w d l (.instr i) ≠ .reserved form b :=
  fun h => nomatch ((fmemImm_eq_reserved_iff ..).mp h).2

/-! ### FP-escape words -/

/-- The FP-escape words of a form that no instruction has: fmlow with P = 1 or not .dd; frcp, frsqr and fxfr with P = 1; pfmul3 with
P = 0 or not .dd; the compares with P = 0 (R129). -/
def ReservedFpWord (w : Word) : Prop :=
  let op := w.extractLsb' 0 7
  let p := w.getLsbD 10
  let dd := w.getLsbD 8 && w.getLsbD 7
  op = 0x21#7 ∧ (p = true ∨ dd = false) ∨ (op = 0x22#7 ∨ op = 0x23#7 ∨ op = 0x40#7) ∧ p = true ∨
    op = 0x24#7 ∧ (p = false ∨ dd = false) ∨ (op = 0x34#7 ∨ op = 0x35#7) ∧ p = false

theorem ite_instr_ne_reserved (c : Bool) (i j : Instr) (form : ReservedForm) (d : Bool) :
    (if c then .instr i else .instr j) ≠ Decoded.reserved form d := by
  split <;> exact nofun

theorem byP_instr_ne_reserved (w : Word) (i j : Instr) (form : ReservedForm) (d : Bool) :
    byP w (.instr i) (.instr j) ≠ .reserved form d := ite_instr_ne_reserved _ i j form d

/-- A form of an FP-escape word that is reserved when pipelined. -/
theorem byP_eq_reserved_of_pipelined {w : Word} {f form : ReservedForm} {j : Instr} {d : Bool}
    (h : byP w (reservedFp w f) (.instr j) = .reserved form d) : w.getLsbD 10 = true ∧ f = form := by
  unfold byP reservedFp at h
  split at h
  · next hp => exact ⟨hp, by injection h⟩
  · cases h

/-- A form of an FP-escape word that is reserved when scalar. -/
theorem byP_eq_reserved_of_scalar {w : Word} {f form : ReservedForm} {i : Instr} {d : Bool}
    (h : byP w (.instr i) (reservedFp w f) = .reserved form d) : w.getLsbD 10 = false ∧ f = form := by
  unfold byP reservedFp at h
  split at h
  · cases h
  · next hp => exact ⟨Bool.eq_false_iff.mpr hp, by injection h⟩

/-- A form of an FP-escape word that is reserved unless a condition holds. -/
theorem reserved_of_unless {w : Word} {c d : Bool} {f form : ReservedForm} {i : Instr}
    (h : (if c then .instr i else reservedFp w f) = .reserved form d) : c = false ∧ f = form := by
  unfold reservedFp at h
  split at h
  · cases h
  · next hc => exact ⟨Bool.eq_false_iff.mpr hc, by injection h⟩

/-- What the floating-point-escape table answers as reserved is an FP-escape form of a reserved word. -/
theorem reservedFpWord_of_decodeFpUpper {w : Word} {form : ReservedForm} {d : Bool} (h : decodeFpUpper w = .reserved form d) :
    form.isFp = true ∧ ReservedFpWord w := by
  unfold decodeFpUpper at h
  split at h
  all_goals try exact absurd h (byP_instr_ne_reserved _ _ _ _ _)
  · next hop =>
    obtain ⟨hc, rfl⟩ := reserved_of_unless h
    have hform : ∀ p s r : Bool, (!p && s && r) = false → p = true ∨ (s && r) = false := by decide
    exact ⟨rfl, .inl ⟨hop, hform _ _ _ hc⟩⟩
  · next hop =>
    obtain ⟨hp, rfl⟩ := byP_eq_reserved_of_pipelined h
    exact ⟨rfl, .inr (.inl ⟨.inl hop, hp⟩)⟩
  · next hop =>
    obtain ⟨hp, rfl⟩ := byP_eq_reserved_of_pipelined h
    exact ⟨rfl, .inr (.inl ⟨.inr (.inl hop), hp⟩)⟩
  · next hop =>
    obtain ⟨hc, rfl⟩ := reserved_of_unless h
    have hform : ∀ p s r : Bool, (p && s && r) = false → p = false ∨ (s && r) = false := by decide
    exact ⟨rfl, .inr (.inr (.inl ⟨hop, hform _ _ _ hc⟩))⟩
  · next hop =>
    rw [← apply_ite Decoded.instr] at h
    obtain ⟨hp, rfl⟩ := byP_eq_reserved_of_scalar h
    exact ⟨rfl, .inr (.inr (.inr ⟨.inl hop, hp⟩))⟩
  · next hop =>
    obtain ⟨hp, rfl⟩ := byP_eq_reserved_of_scalar h
    exact ⟨rfl, .inr (.inr (.inr ⟨.inr hop, hp⟩))⟩
  · next hop =>
    obtain ⟨hp, rfl⟩ := byP_eq_reserved_of_pipelined h
    exact ⟨rfl, .inr (.inl ⟨.inr (.inr hop), hp⟩)⟩
  · cases h

/-- The dual operations are never reserved. -/
theorem reservedFpWord_of_decodeFp {w : Word} {form : ReservedForm} {d : Bool} (h : decodeFp w = .reserved form d) :
    form.isFp = true ∧ ReservedFpWord w := by
  unfold decodeFp at h
  split at h
  · exact absurd h (byP_instr_ne_reserved _ _ _ _ _)
  · exact absurd h (byP_instr_ne_reserved _ _ _ _ _)
  · exact reservedFpWord_of_decodeFpUpper h

/-- A reserved word of the floating-point-escape table is answered as such. -/
theorem decodeFp_of_reservedFpWord {w : Word} (h : ReservedFpWord w) : ∃ form d, decodeFp w = .reserved form d := by
  rcases h with ⟨hop, hc⟩ | ⟨hop | hop | hop, hp⟩ | ⟨hop, hc⟩ | ⟨hop | hop, hp⟩
  all_goals rw [decodeFp_of_op hop (by decide), decodeFpUpper, hop]
  · refine ⟨.fmlowForm, w.getLsbD 9, if_neg ?_⟩
    rcases hc with hp | hdd
    · rw [hp, Bool.not_true, Bool.false_and, Bool.false_and]; decide
    · rw [Bool.and_assoc, hdd, Bool.and_false]; decide
  · exact ⟨.frcpPipelined, w.getLsbD 9, if_pos hp⟩
  · exact ⟨.frsqrPipelined, w.getLsbD 9, if_pos hp⟩
  · exact ⟨.fxfrPipelined, w.getLsbD 9, if_pos hp⟩
  · refine ⟨.pfmul3Form, w.getLsbD 9, if_neg ?_⟩
    rcases hc with hp | hdd
    · rw [hp, Bool.false_and, Bool.false_and]; decide
    · rw [Bool.and_assoc, hdd, Bool.and_false]; decide
  · exact ⟨.compareScalar, w.getLsbD 9, if_neg (by rw [hp]; decide)⟩
  · exact ⟨.compareScalar, w.getLsbD 9, if_neg (by rw [hp]; decide)⟩

/-! ### The primary table -/

theorem decodeCoreEscape_ne_reserved (w : Word) (form : ReservedForm) (d : Bool) : decodeCoreEscape w ≠ .reserved form d := by
  unfold decodeCoreEscape; split <;> exact nofun

/-- The words that are reserved, and the forms they are reserved as (R129). -/
theorem decodeWord_eq_reserved_iff (w : Word) (form : ReservedForm) (d : Bool) :
    decodeWord w = .reserved form d ↔
      (primaryOf w = 0x18#6 ∨ primaryOf w = 0x19#6) ∧ w.extractLsb' 1 2 = 2#2 ∧
          Decoded.reserved .pfldQuad false = .reserved form d ∨
      primaryOf w = 0x0F#6 ∧ w.extractLsb' 1 2 ≠ 0#2 ∧ Decoded.reserved .pstNotDouble false = .reserved form d ∨
      primaryOf w = 0x12#6 ∧ decodeFp w = .reserved form d := by
  constructor
  · intro h
    unfold decodeWord at h
    split at h
    all_goals try cases h
    all_goals try exact absurd h (ite_instr_ne_reserved _ _ _ _ _)
    all_goals try exact absurd h (fmemReg_instr_ne_reserved _ _ _ _ _ _)
    all_goals try exact absurd h (fmemImm_instr_ne_reserved _ _ _ _ _ _)
    · next hp =>
      split at h
      · next hsize => exact .inr (.inl ⟨hp, (size_ne_double_iff w).mpr hsize, h⟩)
      · cases h
    · next hp => exact .inr (.inr ⟨hp, h⟩)
    · exact absurd h (decodeCoreEscape_ne_reserved _ _ _)
    · next hp => exact .inl ⟨.inl hp, (fmemReg_eq_reserved_iff ..).mp h⟩
    · next hp => exact .inl ⟨.inr hp, (fmemImm_eq_reserved_iff ..).mp h⟩
  · rintro (⟨hp | hp, hq⟩ | ⟨hp, hsize, he⟩ | ⟨hp, hfp⟩)
    · rw [decodeWord, hp]; exact (fmemReg_eq_reserved_iff ..).mpr hq
    · rw [decodeWord, hp]; exact (fmemImm_eq_reserved_iff ..).mpr hq
    · rw [decodeWord, hp]; exact (if_pos ((size_ne_double_iff w).mp hsize)).trans he
    · rw [decodeWord, hp]; exact hfp

/-- Whether a word is reserved, by its fields (R129). -/
theorem exists_decodeWord_eq_reserved_iff (w : Word) :
    (∃ form d, decodeWord w = .reserved form d) ↔
      (primaryOf w = 0x18#6 ∨ primaryOf w = 0x19#6) ∧ w.extractLsb' 1 2 = 2#2 ∨ primaryOf w = 0x0F#6 ∧ w.extractLsb' 1 2 ≠ 0#2 ∨
        primaryOf w = 0x12#6 ∧ ReservedFpWord w := by
  simp only [decodeWord_eq_reserved_iff]
  constructor
  · rintro ⟨form, d, ⟨hp, hsize, _⟩ | ⟨hp, hsize, _⟩ | ⟨hp, hfp⟩⟩
    · exact .inl ⟨hp, hsize⟩
    · exact .inr (.inl ⟨hp, hsize⟩)
    · exact .inr (.inr ⟨hp, (reservedFpWord_of_decodeFp hfp).2⟩)
  · rintro (⟨hp, hsize⟩ | ⟨hp, hsize⟩ | ⟨hp, hfp⟩)
    · exact ⟨_, _, .inl ⟨hp, hsize, rfl⟩⟩
    · exact ⟨_, _, .inr (.inl ⟨hp, hsize, rfl⟩)⟩
    · obtain ⟨form, d, h⟩ := decodeFp_of_reservedFpWord hfp
      exact ⟨form, d, .inr (.inr ⟨hp, h⟩)⟩

/-- A reserved word is an FP-escape word when its form is one (R131). -/
theorem isFp_of_decodeWord {w : Word} {form : ReservedForm} {d : Bool} (h : decodeWord w = .reserved form d) :
    form.isFp = (opFlags w).fp := by
  unfold opFlags
  dsimp only
  rcases (decodeWord_eq_reserved_iff w form d).mp h with ⟨hp | hp, _, he⟩ | ⟨hp, _, he⟩ | ⟨hp, hfp⟩
  · cases he; rw [hp]; rfl
  · cases he; rw [hp]; rfl
  · cases he; rw [hp]; rfl
  · rw [(reservedFpWord_of_decodeFp hfp).1, hp]; rfl

end Sys2Proof

namespace Sys2Proof.Machine

/-! ## Reserved forms executed, and the kill of the next FP-escape instruction (R122, R129, R133) -/

/-- A step whose fetch answers a reserved word that is no FP-escape word, or one with KNF clear, is refused. -/
theorem step_of_reserved_refused {s t : State} {w : Word} {form : ReservedForm} {d : Bool} (hheld : s.held = false)
    (hf : fetch s.pc s = .done w t) (hw : decodeWord w = .reserved form d) (h : t.knf = false ∨ (opFlags w).fp = false) :
    ∃ q, step s = .refused q := by
  rw [step_of_fetch_done hheld hf, runDecoded_of_reserved hw]
  rw [← isFp_of_decodeWord hw] at h
  split
  · next hfp =>
    have hk : t.knf = false := h.resolve_right (by rw [hfp]; decide)
    exact (isRefused_fpEscape hk ⟨_, rfl⟩).finish
  · exact ⟨_, rfl⟩

/-- A step whose fetch answers a reserved FP-escape word with KNF set only clears KNF (R133). -/
theorem step_of_reserved_suppressed {s t : State} {w : Word} {form : ReservedForm} {d : Bool} (hheld : s.held = false)
    (hf : fetch s.pc s = .done w t) (hw : decodeWord w = .reserved form d) (hfp : (opFlags w).fp = true) (hk : t.knf = true) :
    step s = .next (t.clearKNF.endStep s.pc none) := by
  rw [step_of_fetch_done hheld hf, runDecoded_of_reserved hw, isFp_of_decodeWord hw, if_pos hfp, fpEscape_of_knf_set hk,
    finish_done, (pc_pendDslot_of_fetch hf).1]

/-- Settles O51: an FP-escape instruction and a reserved FP-escape word are both executed through `fpEscape`. -/
theorem killNextFloating : Obligations.KillNextFloating := by
  refine ⟨fun i s hfp hk => ?_, fun s t w form d hheld hf hw hfp hk => ?_⟩
  · obtain ⟨d, body, _, he⟩ := exec_of_fp hfp s
    rw [fpEscape_of_knf_set hk] at he
    exact completes_of he (suppressedFrom_clearKNF s)
  · have he := step_of_reserved_suppressed hheld hf hw hfp hk
    exact ⟨_, suppressedFrom_clearKNF t, he, fun hs hx hi => by rw [he, endStep_of_quiet _ _ hi hs hx]; rfl⟩

/-! ## Forms that are refused (R27, R122, R129, R173, R312, R386, R403) -/

/-! ### Parts of a rule -/

/-- A rule is refused with its first part. -/
theorem IsRefused.bind {α : Type} {x : Exec α} (h : ∃ q, x = .refused q) (k : α → State → Exec Unit) : IsRefused (x.bind k) := by
  obtain ⟨q, rfl⟩ := h
  exact ⟨q, rfl⟩

/-- A rule is refused with the part that follows a completed one. -/
theorem IsRefused.bind_of_done {α : Type} {x : Exec α} {a : α} {t : State} {k : α → State → Exec Unit} (hx : x = .done a t)
    (h : IsRefused (k a t)) : IsRefused (x.bind k) := by
  rw [hx]; exact h

/-- A rule that begins by refusing a form. -/
theorem isRefused_unless {ok : Bool} {q : Refusal} {x : Exec Unit} (h : ok = false) :
    IsRefused (if !ok then .refused q else x) := by
  rw [h]; exact ⟨q, rfl⟩

/-- A misaligned register is refused (R27). -/
theorem isRefused_of_misaligned {ok : Bool} {k : State → Exec Unit} {s : State} (h : ok = false) :
    IsRefused (requireAligned ok k s) := by
  unfold requireAligned; rw [h]; exact ⟨_, rfl⟩

/-- A precision pair that is not accepted, or a misaligned register of an accepted pair, is refused (R27, R129). -/
theorem isRefused_of_checks {pairOk alignedOk : Bool} {k : State → Exec Unit} {s : State}
    (h : pairOk = true → alignedOk = false) : IsRefused (requirePair pairOk (requireAligned alignedOk k) s) := by
  unfold requirePair
  split
  · next hp => exact isRefused_of_misaligned (h hp)
  · exact ⟨_, rfl⟩

/-! ### Ill-formed instructions (R27, R129, R358, R385, R400) -/

/-- A word of the FP-escape format carries the FP flag (R131). -/
theorem fp_fpWord (src2 dest src1 : Reg) (p d s r : Bool) (op : BitVec 7) :
    (opFlags (fpWord src2 dest src1 p d s r op)).fp = true := by
  unfold opFlags; rw [primaryOf_fpWord]; rfl

/-- Where KNF does not suppress it, an FP-escape instruction is refused with its rule. -/
theorem exec_fp_refused {src2 dest src1 : Reg} {p d s r : Bool} {op : BitVec 7} {st : State} {b : Bool}
    {body : State → Exec Unit} (hk : st.knf = false ∨ (opFlags (fpWord src2 dest src1 p d s r op)).fp = false)
    (h : IsRefused (body st)) : ∃ q, finish st.pc (fpEscape b body st) = .refused q :=
  (isRefused_fpEscape (hk.resolve_right (by rw [fp_fpWord]; decide)) h).finish

/-- A conversion's result is a double (R358). -/
theorem eq_double_of_pairFix {s r : Prec} (h : pairFix s r = true) : r = .double := by
  cases r with
  | double => rfl
  | single => cases h

/-- The pair dd (R400). -/
theorem eq_double_of_pairDouble {s r : Prec} (h : pairDouble s r = true) : s = .double ∧ r = .double := by
  cases s <;> cases r <;> simp_all [pairDouble]

/-- An instruction that is not well formed is refused. -/
theorem exec_of_illFormed {i : Instr} {s : State} (hw : wellFormed i = false)
    (hk : s.knf = false ∨ (opFlags (encode i)).fp = false) : ∃ q, exec i s = .refused q := by
  cases i with
  | flddR | flddI | fldqR | fldqI | fstdR | fstdI | fstqR | fstqI | pstd => exact (isRefused_unless hw).finish
  | fmul | fadd | fsub | fiadd | fisub | faddp | faddz | fzchkl | fzchks =>
    exact exec_fp_refused hk (isRefused_of_checks fun hp => by simpa [wellFormed, scalar3Ok, hp] using hw)
  | pfmul | pfadd | pfsub | pfeq | pfiadd | pfisub | pfaddp | pfaddz | pfzchkl | pfzchks =>
    exact exec_fp_refused hk (isRefused_of_checks fun hp => by simpa [wellFormed, piped3Ok, hp] using hw)
  | pfam | pfsm | pfmam | pfmsm =>
    exact exec_fp_refused hk (isRefused_of_checks fun hp => by simpa [wellFormed, dualOk, hp] using hw)
  | frcp | frsqr =>
    exact exec_fp_refused hk (isRefused_of_checks fun hp => by simpa [wellFormed, scalar2Ok, hp] using hw)
  | fix | ftrunc =>
    exact exec_fp_refused hk (isRefused_of_checks fun hp => by
      simpa [wellFormed, scalar2Ok, pairFix, eq_double_of_pairFix hp] using hw)
  | pfix | pftrunc =>
    exact exec_fp_refused hk (isRefused_of_checks fun hp => by simpa [wellFormed, piped2Ok, hp] using hw)
  | form =>
    exact exec_fp_refused hk (isRefused_of_checks fun hp => by
      obtain ⟨hs, hr⟩ := eq_double_of_pairDouble hp
      simpa [wellFormed, scalar2Ok, pairDouble, hs, hr] using hw)
  | pform =>
    exact exec_fp_refused hk (isRefused_of_checks fun hp => by
      obtain ⟨hs, hr⟩ := eq_double_of_pairDouble hp
      simpa [wellFormed, piped2Ok, pairDouble, hs, hr] using hw)
  | fmlow | pfmul3 | famov | pfamov | pfgt | pfle => exact exec_fp_refused hk (isRefused_of_misaligned hw)
  | _ => cases hw

/-! ### D = 1, PS = 3 and mixed precisions (R122, R173, R386, R403) -/

/-- An FP-escape instruction with D = 1 is refused under DUAL_MODE_POLICY = refuse (R122). -/
theorem exec_of_dualInstructionMode {i : Instr} {s : State} (hfp : (opFlags (encode i)).fp = true)
    (hd : (encode i).getLsbD 9 = true) (hk : s.knf = false) (hpolicy : s.params.dualModePolicy = .refuse) :
    exec i s = .refused .dualInstructionMode := by
  obtain ⟨d, body, hd', he⟩ := exec_of_fp hfp s
  have ha : s.admits d = false := by unfold State.admits; rw [← hd', hd, hpolicy]; rfl
  rw [he, fpEscape_of_not_admits hk ha]; rfl

/-- pst.d with PS = 3 is refused (R173). -/
theorem isRefused_bodyPstd (fdest : Reg) (imm : BitVec 13) (src2 : Reg) (inc : Bool) {s : State} (h : s.ps = 3#2) :
    IsRefused (bodyPstd fdest imm src2 inc s) := by
  unfold bodyPstd
  split
  · exact ⟨_, rfl⟩
  · rw [h]; exact ⟨.pixelSize3, rfl⟩

/-- The pixel sum has no meaning with PS = 3 (R403). -/
theorem pixelAdd_refused (a b : Dword) {s : State} (h : s.ps = 3#2) : ∃ q, pixelAdd a b s = .refused q := by
  unfold pixelAdd; rw [h]; exact ⟨_, rfl⟩

section
variable {s : State} (hk : s.knf = false)
include hk

theorem isRefused_scalarGraphics (pair : Prec → Prec → Bool) {op : GraphicsOp} (o : Fp3)
    (h : ∀ a b, ∃ q, op a b s = .refused q) : IsRefused (scalarGraphics pair op o s) :=
  isRefused_fpEscape hk (isRefused_requirePair (isRefused_requireAligned (IsRefused.bind (h _ _) _)))

theorem isRefused_pipedGraphics (pair : Prec → Prec → Bool) {op : GraphicsOp} (o : Fp3)
    (h : ∀ a b, ∃ q, op a b s = .refused q) : IsRefused (pipedGraphics pair op o s) :=
  isRefused_fpEscape hk (isRefused_requirePair (isRefused_requireAligned (IsRefused.bind (h _ _) _)))

/-- A dual operation with an operand of the other precision is refused (R386). -/
theorem isRefused_dualOp (op : ExactOp) (out : DualOut) (dpc : BitVec 4) (o : Fp3)
    (h : (dualOperands dpc o s).fits o.s o.r = false) : IsRefused (dualOp op out dpc o s) := by
  refine isRefused_fpEscape hk (isRefused_requirePair (isRefused_requireAligned ?_))
  dsimp only
  rw [h]; exact ⟨_, rfl⟩

end

/-- The operand carries the precision its unit does not need (R386). -/
def UnitOperand.HasOther (x : UnitOperand) (need : Prec) : Prop := ∃ v p, x = .value v (some p) ∧ p ≠ need

theorem UnitOperand.HasOther.fits {x : UnitOperand} {need : Prec} (h : x.HasOther need) : x.fits need = false := by
  obtain ⟨v, p, rfl, hne⟩ := h
  exact beq_eq_false_iff_ne.mpr hne.symm

/-- One operand of the other precision is enough. -/
theorem DualOperands.fits_of_hasOther {ops : DualOperands} {sp rp : Prec}
    (h : ops.m1.HasOther sp ∨ ops.m2.HasOther sp ∨ ops.a1.HasOther rp ∨ ops.a2.HasOther rp) : ops.fits sp rp = false := by
  unfold DualOperands.fits
  rcases h with h | h | h | h <;> rw [h.fits] <;> simp

/-! ### A double entry that would go to an odd fdest (R312) -/

/-- A double entry is to leave the pipeline into an odd register (R312). -/
def OddDouble (e : Option Entry) (dest : Reg) : Prop :=
  (∃ v, e = some { value := v, prec := .double }) ∧ dest.getLsbD 0 = true

theorem OddDouble.misfit {e : Option Entry} {dest : Reg} (h : OddDouble e dest) : retireFits e dest = false := by
  obtain ⟨⟨v, rfl⟩, hodd⟩ := h
  exact retireFits_of_odd hodd

/-- The stage of the multiplier that a pfmul or a dual operation retires (R315). -/
theorem last_depthOf (m : Pipe) (p : Prec) : m.last (depthOf p) = if p = .double then m.s2 else m.s3 := by
  cases p <;> rfl

/-- What is issued into the pipeline is refused or trapped, at every state with the pipelines and FTE of `s`. -/
abbrev RefusesIssue (s : State) (k : Dword → State → Exec Unit) : Prop := ∀ v t, PipesKept s t → RefusedOrTraps s (k v t)

section
variable {s : State} {dest : Reg}

theorem pushAdder_refusesIssue (r : Prec) (h : OddDouble s.adder.s3 dest) : RefusesIssue s (pushAdder r dest) := by
  rintro v t ⟨_, ha, _⟩
  exact .inl (isRefused_retire (by rw [ha]; exact h.misfit))

theorem pushMultiplier_refusesIssue (d : Depth) (r : Prec) (h : OddDouble (s.multiplier.last d) dest) :
    RefusesIssue s (pushMultiplier d r dest) := by
  rintro v t ⟨_, _, hm, _⟩
  exact .inl (isRefused_retire (by rw [hm]; exact h.misfit))

theorem isRefused_pushGraphics (r : Prec) (v : Dword) {t : State} (hg : t.graphics = s.graphics)
    (h : OddDouble s.graphics dest) : IsRefused (pushGraphics r dest v t) :=
  isRefused_retire (by rw [hg]; exact h.misfit)

theorem isRefused_issueLoader (r : Prec) (e : Option Entry) {t : State} (hl : t.loader = s.loader)
    (h : OddDouble s.loader.s3 dest) : IsRefused (issueLoader r dest e t) :=
  isRefused_retire (by rw [hl]; exact h.misfit)

end

section
variable {s : State} (hk : s.knf = false)
include hk

theorem pipedArith_of_oddDouble (unit : FpUnit) (op : ExactOp) {push : Prec → Reg → Dword → State → Exec Unit} (o : Fp3)
    (h : RefusesIssue s (push o.r o.dest)) : RefusedOrTraps s (pipedArith unit op push o s) :=
  refusedOrTraps_fpEscape hk (refusedOrTraps_requirePair (refusedOrTraps_requireAligned
    (refusedOrTraps_fpCheck (PipesKept.refl s) h)))

theorem bodyPfmul3_of_oddDouble (o : FpDd) (h : OddDouble s.multiplier.s3 o.dest) : RefusedOrTraps s (bodyPfmul3 o s) :=
  refusedOrTraps_fpEscape hk (refusedOrTraps_requireAligned
    (refusedOrTraps_fpCheck (PipesKept.refl s) (pushMultiplier_refusesIssue .three .double h)))

theorem bodyPfamov_of_oddDouble (o : Fp2) (h : OddDouble s.adder.s3 o.dest) : RefusedOrTraps s (bodyPfamov o s) :=
  refusedOrTraps_fpEscape hk (refusedOrTraps_requireAligned
    (refusedOrTraps_fpCheck (PipesKept.refl s) (pushAdder_refusesIssue o.r h)))

end

/-- A compare traps on a NaN, or issues into the adder (R353 to R355). -/
theorem compare_of_oddDouble (test : FVal → FVal → Bool) (src1 src2 : Reg) (p : Prec) {s : State} {dest : Reg}
    (h : OddDouble s.adder.s3 dest) : RefusedOrTraps s (compare test src1 src2 dest p s) := by
  unfold compare
  dsimp only
  split
  · next ht => exact refusedOrTraps_raise (Bool.and_eq_true_iff.mp ht).2 rfl
  · exact .inl (isRefused_retire h.misfit)

/-- A conversion traps, or issues into the adder (R350). -/
theorem convertTo_of_oddDouble (rm : RMode) (o : Fp2) {s : State} (h : OddDouble s.adder.s3 o.dest) :
    RefusedOrTraps s (convertTo rm o (pushPair o.dest) s) := by
  unfold convertTo
  dsimp only
  split
  · next ht => exact refusedOrTraps_raise (Bool.and_eq_true_iff.mp ht).2 rfl
  · split
    · next ht =>
      rw [Bool.and_assoc] at ht
      exact refusedOrTraps_raise (Bool.and_eq_true_iff.mp ht).1 rfl
    · exact .inl (isRefused_retire h.misfit)

/-- A pipelined conversion is refused or traps. -/
theorem pipedConvert_of_oddDouble {s : State} (hk : s.knf = false) (rm : State → RMode) (o : Fp2)
    (h : OddDouble s.adder.s3 o.dest) : RefusedOrTraps s (pipedConvert rm o s) :=
  refusedOrTraps_fpEscape hk (refusedOrTraps_requirePair (refusedOrTraps_requireAligned (convertTo_of_oddDouble _ o h)))

/-- The entry that leaves the pipeline a dual operation retires from (R381 to R384). -/
def DualOut.leaving (out : DualOut) (o : Fp3) (s : State) : Option Entry :=
  match out with
  | .adder => s.adder.s3
  | .multiplier => s.multiplier.last (depthOf o.s)

theorem DualOut.leaving_of_pipesKept (out : DualOut) (o : Fp3) {s t : State} (h : PipesKept s t) :
    out.leaving o t = out.leaving o s := by
  obtain ⟨_, ha, hm, _⟩ := h
  cases out with
  | adder => exact congrArg Pipe.s3 ha
  | multiplier => exact congrArg (Pipe.last · (depthOf o.s)) hm

/-- The commit of a dual operation retires the entry its row names, read before anything is written (R323, R385). -/
theorem dualCommit_of_oddDouble (dpc : BitVec 4) (out : DualOut) (o : Fp3) (knew : Tagged) (mres ares : Dword) {s : State}
    (h : OddDouble (out.leaving o s) o.dest) : IsRefused (dualCommit dpc out o knew mres ares s) := by
  unfold dualCommit
  cases out with
  | adder => exact isRefused_retire h.misfit
  | multiplier => exact isRefused_retire h.misfit

/-- The OR of the checks' SE bits writes nothing but SE (R386). -/
theorem PipesKept.orSE {s u : State} (h : PipesKept s u) (before : Bool) : PipesKept s (u.orSE before) := by
  obtain ⟨hf, ha, hm, hg, hfte⟩ := h
  exact ⟨hf, ha, hm, hg, (getLsbD_setBit_ne _ _ _ _ (by decide) (by decide)).trans hfte⟩

/-- A dual operation is refused, or one of its units traps before the retirement (R312, R385). -/
theorem dualOp_of_oddDouble (op : ExactOp) (out : DualOut) (dpc : BitVec 4) (o : Fp3) {s : State} (hk : s.knf = false)
    (h : OddDouble (out.leaving o s) o.dest) : RefusedOrTraps s (dualOp op out dpc o s) := by
  refine refusedOrTraps_fpEscape hk (refusedOrTraps_requirePair (refusedOrTraps_requireAligned ?_))
  dsimp only
  split
  · refine refusedOrTraps_unitResult (PipesKept.refl s) fun mres s1 h1 => refusedOrTraps_unitResult h1 fun ares s2 h2 => ?_
    have hcommit : ∀ {t}, PipesKept s t → RefusedOrTraps s (dualCommit dpc out o (dualOperands dpc o s).knew mres ares t) :=
      fun ht => .inl (dualCommit_of_oddDouble dpc out o _ mres ares (by rw [out.leaving_of_pipesKept o ht]; exact h))
    split
    · exact hcommit (h2.orSE _)
    · exact hcommit h2
  · exact .inl ⟨_, rfl⟩

section
variable {s : State} (hk : s.knf = false)
include hk

/-- A pipelined graphics instruction is refused whatever its operation answers, which leaves the graphics pipeline alone (R312). -/
theorem pipedGraphics_of_oddDouble (pair : Prec → Prec → Bool) {op : GraphicsOp} (o : Fp3) (h : OddDouble s.graphics o.dest)
    (hop : ∀ a b, (∃ q, op a b s = .refused q) ∨ ∃ v t, op a b s = .done v t ∧ t.graphics = s.graphics) :
    IsRefused (pipedGraphics pair op o s) := by
  refine isRefused_fpEscape hk (isRefused_requirePair (isRefused_requireAligned ?_))
  rcases hop (s.fr o.s o.src1) (s.fr o.s o.src2) with hr | ⟨v, t, ht, hg⟩
  · exact IsRefused.bind hr _
  · exact IsRefused.bind_of_done ht (isRefused_pushGraphics o.r v hg h)

/-- pform clears MERGE before it issues, and leaves the graphics pipeline alone (R407). -/
theorem bodyPform_of_oddDouble (o : Fp2) (h : OddDouble s.graphics o.dest) : IsRefused (bodyPform o s) := by
  refine isRefused_fpEscape hk (isRefused_requirePair (isRefused_requireAligned ?_))
  exact isRefused_pushGraphics (t := s.setMerge 0#64) .double _ rfl h

end

/-- faddp answers a sum, or is refused for its pixel size (R403). -/
theorem pixelAdd_cases (a b : Dword) (s : State) :
    (∃ q, pixelAdd a b s = .refused q) ∨ ∃ v t, pixelAdd a b s = .done v t ∧ t.graphics = s.graphics := by
  unfold pixelAdd
  split
  · exact .inr ⟨_, _, rfl, rfl⟩
  · exact .inl ⟨_, rfl⟩

section
variable {s t : State} {ea pa : Word} {fdest : Reg} (src2 : Reg) (inc : Bool) (h : OddDouble s.loader.s3 fdest)
include h

/-- pfld.l whose access goes through is refused at the issue (R172, R312). -/
theorem pfldSingle_of_oddDouble (hacc : Accessible 2 .read ea s pa t) : IsRefused (pfldSingle ea src2 fdest inc s) := by
  refine IsRefused.bind_of_done (dataRead_of_accessible (n := .word) hacc)
    (IsRefused.bind (isRefused_issueLoader .single _ ?_ h) _)
  exact (loader_of_accessible hacc :)

/-- The same of pfld.d. -/
theorem pfldDouble_of_oddDouble (hacc : Accessible 3 .read ea s pa t) : IsRefused (pfldDouble ea src2 fdest inc s) := by
  have hread : dataRead64 ea s = busRead64 pa t := by unfold dataRead64; rw [dataAddress_of_accessible hacc]; rfl
  refine IsRefused.bind_of_done (hread.trans (busRead64_eq pa t)) (IsRefused.bind (isRefused_issueLoader .double _ ?_ h) _)
  exact (loader_of_accessible hacc :)

end

/-! ### The statement's clauses -/

/-- The instruction is refused. -/
def ExecRefused (i : Instr) (s : State) : Prop := ∃ q, exec i s = .refused q

/-- The instruction takes a floating-point trap with FTE set, and leaves the floating-point registers as they were (R341). -/
def ExecFpTraps (i : Instr) (s : State) : Prop :=
  s.fte = true ∧ ∃ t, exec i s = .next t ∧ t.psr.getLsbD 12 = true ∧ t.fpr = s.fpr

section
variable {s : State} (hk : s.knf = false)
include hk

/-- A dual operation with an operand of the other precision, whichever of the four it is. -/
theorem dual_refused_of_misfit (dpc : BitVec 4) (o : Fp3) (h : (dualOperands dpc o s).fits o.s o.r = false) :
    ∀ i ∈ [Instr.pfam dpc o, .pfsm dpc o, .pfmam dpc o, .pfmsm dpc o], ExecRefused i s := by
  have hrefused : ∀ op out, ∃ q, finish s.pc (dualOp op out dpc o s) = .refused q := fun op out =>
    (isRefused_dualOp hk op out dpc o h).finish
  simp only [List.mem_cons, List.not_mem_nil, or_false, forall_eq_or_imp, forall_eq]
  exact ⟨hrefused exactAdd .adder, hrefused exactSub .adder, hrefused exactAdd .multiplier, hrefused exactSub .multiplier⟩

/-- The pipelined adder instructions of two sources. -/
theorem adder_of_oddDouble (o : Fp3) (h : OddDouble s.adder.s3 o.dest) :
    ∀ i ∈ [Instr.pfadd o, .pfsub o, .pfeq o], ExecRefused i s ∨ ExecFpTraps i s := by
  simp only [List.mem_cons, List.not_mem_nil, or_false, forall_eq_or_imp, forall_eq]
  exact ⟨(pipedArith_of_oddDouble hk _ _ o (pushAdder_refusesIssue o.r h)).finish,
    (pipedArith_of_oddDouble hk _ _ o (pushAdder_refusesIssue o.r h)).finish,
    (refusedOrTraps_fpEscape hk (refusedOrTraps_requirePair (refusedOrTraps_requireAligned
      (compare_of_oddDouble _ _ _ _ h)))).finish⟩

/-- The pipelined multiply. -/
theorem pfmul_of_oddDouble (o : Fp3) (h : OddDouble (s.multiplier.last (depthOf o.s)) o.dest) :
    ExecRefused (.pfmul o) s ∨ ExecFpTraps (.pfmul o) s :=
  (pipedArith_of_oddDouble hk _ _ o (pushMultiplier_refusesIssue _ o.r h)).finish

/-- The pipelined graphics instructions of two sources. -/
theorem graphics_of_oddDouble (o : Fp3) (h : OddDouble s.graphics o.dest) :
    ∀ i ∈ [Instr.pfiadd o, .pfisub o, .pfaddp o, .pfaddz o, .pfzchkl o, .pfzchks o], ExecRefused i s := by
  have hdone : ∀ (pair : Prec → Prec → Bool) (op : GraphicsOp),
      (∀ a b, ∃ v t, op a b s = .done v t ∧ t.graphics = s.graphics) →
        ∃ q, finish s.pc (pipedGraphics pair op o s) = .refused q := fun pair op hop =>
    (pipedGraphics_of_oddDouble hk pair o h fun a b => .inr (hop a b)).finish
  simp only [List.mem_cons, List.not_mem_nil, or_false, forall_eq_or_imp, forall_eq]
  exact ⟨hdone pairSame intAdd fun _ _ => ⟨_, _, rfl, rfl⟩, hdone pairSame intSub fun _ _ => ⟨_, _, rfl, rfl⟩,
    (pipedGraphics_of_oddDouble hk pairDouble o h fun a b => pixelAdd_cases a b s).finish,
    hdone pairDouble zAdd fun _ _ => ⟨_, _, rfl, rfl⟩, hdone pairDouble zCheck32 fun _ _ => ⟨_, _, rfl, rfl⟩,
    hdone pairDouble zCheck16 fun _ _ => ⟨_, _, rfl, rfl⟩⟩

/-- The dual operations that retire the adder's entry. -/
theorem dualAdder_of_oddDouble (dpc : BitVec 4) (o : Fp3) (h : OddDouble s.adder.s3 o.dest) :
    ∀ i ∈ [Instr.pfam dpc o, .pfsm dpc o], ExecRefused i s ∨ ExecFpTraps i s := by
  simp only [List.mem_cons, List.not_mem_nil, or_false, forall_eq_or_imp, forall_eq]
  exact ⟨(dualOp_of_oddDouble _ .adder dpc o hk h).finish, (dualOp_of_oddDouble _ .adder dpc o hk h).finish⟩

/-- The dual operations that retire the multiplier's entry. -/
theorem dualMultiplier_of_oddDouble (dpc : BitVec 4) (o : Fp3) (h : OddDouble (s.multiplier.last (depthOf o.s)) o.dest) :
    ∀ i ∈ [Instr.pfmam dpc o, .pfmsm dpc o], ExecRefused i s ∨ ExecFpTraps i s := by
  simp only [List.mem_cons, List.not_mem_nil, or_false, forall_eq_or_imp, forall_eq]
  exact ⟨(dualOp_of_oddDouble _ .multiplier dpc o hk h).finish, (dualOp_of_oddDouble _ .multiplier dpc o hk h).finish⟩

/-- The pipelined adder instructions of one source. -/
theorem adder2_of_oddDouble (o : Fp2) (h : OddDouble s.adder.s3 o.dest) :
    ∀ i ∈ [Instr.pfix o, .pftrunc o, .pfamov o], ExecRefused i s ∨ ExecFpTraps i s := by
  simp only [List.mem_cons, List.not_mem_nil, or_false, forall_eq_or_imp, forall_eq]
  exact ⟨(pipedConvert_of_oddDouble hk _ o h).finish, (pipedConvert_of_oddDouble hk _ o h).finish,
    (bodyPfamov_of_oddDouble hk o h).finish⟩

/-- The compares whose R bit selects them. -/
theorem compares_of_oddDouble (o : FpCmp) (h : OddDouble s.adder.s3 o.dest) :
    ∀ i ∈ [Instr.pfgt o, .pfle o], ExecRefused i s ∨ ExecFpTraps i s := by
  simp only [List.mem_cons, List.not_mem_nil, or_false, forall_eq_or_imp, forall_eq]
  exact ⟨(refusedOrTraps_fpEscape hk (refusedOrTraps_requireAligned (compare_of_oddDouble _ _ _ _ h))).finish,
    (refusedOrTraps_fpEscape hk (refusedOrTraps_requireAligned (compare_of_oddDouble _ _ _ _ h))).finish⟩

end

/-- Settles O5: each clause by the part of the rule that refuses. -/
theorem illFormedRefused : Obligations.IllFormedRefused := by
  refine ⟨fun i s => exec_of_illFormed, fun s t w form d => step_of_reserved_refused, exists_decodeWord_eq_reserved_iff,
    fun i s => exec_of_dualInstructionMode, fun s hps => ⟨fun fdest imm src2 inc => ?_, fun hk o => ⟨?_, ?_⟩⟩, ?_,
    fun s => ⟨fun hk => ⟨fun o => ⟨adder_of_oddDouble hk o, fun h => pfmul_of_oddDouble hk o ?_, graphics_of_oddDouble hk o,
      fun dpc => ⟨dualAdder_of_oddDouble hk dpc o, fun h => dualMultiplier_of_oddDouble hk dpc o ?_⟩⟩,
      fun o => ⟨adder2_of_oddDouble hk o, fun h => (bodyPform_of_oddDouble hk o h).finish⟩,
      fun o h => (bodyPfmul3_of_oddDouble hk o h).finish, compares_of_oddDouble hk⟩, fun pa t src2 fdest inc h => ?_⟩⟩
  · exact (isRefused_bodyPstd fdest imm src2 inc hps).finish
  · exact (isRefused_scalarGraphics hk _ o fun a b => pixelAdd_refused a b hps).finish
  · exact (isRefused_pipedGraphics hk _ o fun a b => pixelAdd_refused a b hps).finish
  · exact fun s dpc o hk h => dual_refused_of_misfit hk dpc o (DualOperands.fits_of_hasOther h)
  · rw [last_depthOf]; exact h
  · rw [last_depthOf]; exact h
  · exact ⟨fun src1 => ⟨fun hacc => (pfldSingle_of_oddDouble src2 inc h hacc).finish,
      fun hacc => (pfldDouble_of_oddDouble src2 inc h hacc).finish⟩,
      fun imm hacc => (pfldSingle_of_oddDouble src2 inc h hacc).finish,
      fun imm hacc => (pfldDouble_of_oddDouble src2 inc h hacc).finish⟩

end Sys2Proof.Machine

/-! # Loads, stores, transfers and flush (spec/40_core_load_store.md) -/

namespace Sys2Proof.Machine

/-! ## Rules that complete -/

/-- A rule completes, and the state it leaves has the effect. -/
def Exec.Leaves (rule : Exec Unit) (effect : State → Prop) : Prop := ∃ u, rule = .done () u ∧ effect u

theorem Exec.Leaves.mono {rule : Exec Unit} {effect effect' : State → Prop} (h : rule.Leaves effect)
    (himp : ∀ u, effect u → effect' u) : rule.Leaves effect' := by
  obtain ⟨u, hu, heffect⟩ := h
  exact ⟨u, hu, himp u heffect⟩

/-- An instruction whose rule completes with an effect completes with it. -/
theorem completes_of_leaves {i : Instr} {s : State} {rule : Exec Unit} {effect : State → Prop}
    (he : exec i s = finish s.pc rule) (h : rule.Leaves effect) : Completes i s none effect := by
  obtain ⟨u, hu, heffect⟩ := h
  exact completes_of (by rw [he, hu, finish_done]) heffect

/-- A value widened and cut back. -/
theorem extractLsb'_setWidth_of_le {n m : Nat} (v : BitVec n) (h : n ≤ m) : (v.setWidth m).extractLsb' 0 n = v := by
  apply BitVec.eq_of_getLsbD_eq
  intro k hk
  have hm : k < m := by omega
  simp [hk, hm]

/-! ## What an access leaves in memory (R72, R160) -/

section
variable {k : Nat} {kind : AccessKind} {ea pa : Word} {s t : State} (hacc : Accessible k kind ea s pa t)
include hacc

/-- A translation changes memory and the bus record only. -/
theorem exists_mem_bus_of_accessible : ∃ mem bus, t = { s with mem := mem, bus := bus } := by
  rcases translate_eq_done hacc.2.2 with ⟨_, _, rfl⟩ | ⟨_, _, rfl⟩
  · exact ⟨_, _, rfl⟩
  · exact ⟨_, _, rfl⟩

variable (hm : s.mem.wf = true)
include hm

theorem mem_wf_of_accessible : t.mem.wf = true := (accessible_state hacc hm).2.1

/-- A rule that leaves memory as its translation did. -/
theorem memoryKept_of_read {u : State} (hu : u.mem = t.mem) : MemoryKept t u ∧ MemoryKeptButTables ea s u :=
  ⟨fun _ => by rw [hu], fun a ha => by rw [hu]; exact (accessible_state hacc hm).2.2 a ha⟩

/-- A rule that changes some bytes of the memory its translation left. -/
theorem memoryKept_of_write {n : Nat} {u : State} (hu : MemoryKeptBut pa n t u) :
    MemoryKeptBut pa n t u ∧ MemoryKeptButStore ea pa n s u :=
  ⟨hu, fun a ha hout => (hu a hout).trans ((accessible_state hacc hm).2.2 a ha)⟩

end

/-! ## Integer loads (R162 to R165) -/

section
variable {ea pa : Word} {s t : State} (hm : s.mem.wf = true) (dest : Reg)
include hm

/-- A load of a width whose access goes through, the register taking some function of the value read. -/
theorem dataRead_leaves {n : BusSize} (f : Word → Word) (hacc : Accessible n.log .read ea s pa t) :
    ((dataRead n ea s).bind fun v s1 => .done () (s1.setX dest (f v))).Leaves
      (GprLoaded s t ea dest (f (t.mem.busValue n s.be pa)) (readOf pa n.bytes (t.mem.busValue n s.be pa))) := by
  refine ⟨_, by rw [dataRead_of_accessible hacc, be_of_accessible hacc]; rfl, ?_, fun q hq => ?_, ?_⟩
  · rw [x_setX_eq, if_pos rfl]
  · rw [x_setX_eq, if_neg hq]
    obtain ⟨mem, bus, rfl⟩ := exists_mem_bus_of_accessible hacc
    rfl
  · obtain ⟨hkept, htables⟩ := memoryKept_of_read hacc hm (u := t) rfl
    refine ⟨hkept, htables, ?_⟩
    obtain ⟨mem, bus, rfl⟩ := exists_mem_bus_of_accessible hacc
    rfl

theorem loadByte_leaves (hacc : Accessible 0 .read ea s pa t) :
    (loadByte ea dest s).Leaves (GprLoaded s t ea dest ((t.mem.byteAt pa).signExtend 32)
      (readOf pa 1 ((t.mem.byteAt pa).setWidth 32))) := by
  have hext : sextByte ((t.mem.byteAt pa).setWidth 32) = (t.mem.byteAt pa).signExtend 32 := by
    unfold sextByte; rw [extractLsb'_setWidth_of_le _ (by decide)]
  rw [← hext]
  exact dataRead_leaves hm dest (n := .byte) sextByte hacc

theorem loadHalf_leaves (hacc : Accessible 1 .read ea s pa t) :
    (loadHalf ea dest s).Leaves (GprLoaded s t ea dest ((t.mem.half s.be pa).signExtend 32)
      (readOf pa 2 ((t.mem.half s.be pa).setWidth 32))) := by
  have hext : sextHalf ((t.mem.half s.be pa).setWidth 32) = (t.mem.half s.be pa).signExtend 32 := by
    unfold sextHalf; rw [extractLsb'_setWidth_of_le _ (by decide)]
  rw [← hext]
  exact dataRead_leaves hm dest (n := .half) sextHalf hacc

theorem loadWord_leaves (hacc : Accessible 2 .read ea s pa t) :
    (loadWord ea dest s).Leaves (GprLoaded s t ea dest (t.mem.word s.be pa) (readOf pa 4 (t.mem.word s.be pa))) :=
  dataRead_leaves hm dest (n := .word) id hacc

end

/-- Settles O16: the three widths, whatever form the address has. -/
theorem integerLoads : Obligations.IntegerLoads := by
  intro s t pa src2 dest hm
  exact ⟨fun src1 => ⟨fun h => completes_of_leaves rfl (loadByte_leaves hm dest h),
      fun h => completes_of_leaves rfl (loadHalf_leaves hm dest h), fun h => completes_of_leaves rfl (loadWord_leaves hm dest h)⟩,
    fun imm h => completes_of_leaves rfl (loadByte_leaves hm dest h),
    fun imm h => completes_of_leaves rfl (loadHalf_leaves hm dest h),
    fun imm h => completes_of_leaves rfl (loadWord_leaves hm dest h)⟩

/-! ## Integer stores (R166 to R168) -/

/-- A bus write leaves every byte outside it alone. -/
theorem Memory.byteAt_busStore_of_ne {m : Memory} (h : m.wf = true) (n : BusSize) (big : Bool) (a v : Word) {c : Word}
    (hc : ∀ k, k < n.bytes → c ≠ a + BitVec.ofNat 32 k) : (m.busStore n big a v).byteAt c = m.byteAt c := by
  cases n with
  | byte =>
    have h0 : c ≠ a := by simpa using hc 0 (by decide)
    exact (Memory.byteAt_setByte h a c _).trans (if_neg h0)
  | half => exact Memory.byteAt_setHalf_of_ne h big a _ hc
  | word => exact Memory.byteAt_setWord_of_ne h big a v c hc

/-- A store of a width whose access goes through. -/
theorem dataWrite_leaves {n : BusSize} {ea pa v : Word} {s t : State} (hm : s.mem.wf = true)
    (hacc : Accessible n.log .write ea s pa t) :
    (dataWrite n ea v s).Leaves fun u =>
      u.mem = t.mem.busStore n s.be pa v ∧ Stored s t ea pa n.bytes [writeOf pa n.bytes (n.low v)] u := by
  have hkept : MemoryKeptBut pa n.bytes t (busWrite n s.be pa v t) := fun a ha =>
    Memory.byteAt_busStore_of_ne (mem_wf_of_accessible hacc hm) n s.be pa v ha
  obtain ⟨hout, htables⟩ := memoryKept_of_write hacc hm hkept
  refine ⟨_, by rw [dataWrite_of_accessible hacc, be_of_accessible hacc], rfl, hout, htables, ?_⟩
  obtain ⟨mem, bus, rfl⟩ := exists_mem_bus_of_accessible hacc
  rfl

/-- Settles O17: the bytes stored read back at each width. -/
theorem integerStores : Obligations.IntegerStores := by
  intro s t pa src1 src2 hm
  refine ⟨fun imm h => ?_, fun imm h => ?_, fun imm h => ?_⟩
  · refine completes_of_leaves rfl ((dataWrite_leaves (n := .byte) hm h).mono fun u ⟨hmem, hstored⟩ => ⟨?_, hstored⟩)
    rw [hmem]
    exact (Memory.byteAt_setByte (mem_wf_of_accessible h hm) pa pa _).trans (if_pos rfl)
  · refine completes_of_leaves rfl ((dataWrite_leaves (n := .half) hm h).mono fun u ⟨hmem, hstored⟩ => ⟨?_, hstored⟩)
    rw [hmem]
    exact Memory.half_setHalf (mem_wf_of_accessible h hm) s.be pa _
  · refine completes_of_leaves rfl ((dataWrite_leaves (n := .word) hm h).mono fun u ⟨hmem, hstored⟩ => ⟨?_, hstored⟩)
    rw [hmem]
    exact Memory.word_setWord (mem_wf_of_accessible h hm) s.be pa _

/-! ## Register transfers (R169, R356) -/

/-- Settles O18: the registers read back after the one write. -/
theorem registerTransfers : Obligations.RegisterTransfers := by
  intro s
  refine ⟨fun src1 fdest => ?_, fun o ho => ?_⟩
  · refine completes_of_leaves rfl ⟨s.setF fdest (s.x src1), rfl, ?_, fun q hq => ?_, fun _ => rfl, rfl⟩
    · rw [f_setF_eq, if_pos rfl]
    · rw [f_setF_eq, if_neg hq]
  · refine completes_of_leaves rfl ⟨s.setX o.dest (s.f o.src), fpEscape_of_executes ho, ?_, fun q hq => ?_, fun _ => rfl, rfl⟩
    · rw [x_setX_eq, if_pos rfl]
    · rw [x_setX_eq, if_neg hq]

/-! ## Cache flush (R174) -/

/-- flush whose dest field is r0: the auto-increment alone. -/
theorem bodyFlush_of_zero (imm : BitVec 15) (src2 : Reg) (inc : Bool) (s : State) :
    bodyFlush imm src2 0#5 inc s = .done () (s.autoInc inc src2 (s.eaImm (dispFlush imm) src2)) := rfl

/-- flush whose dest field names a register: a free value goes there after the auto-increment. -/
theorem bodyFlush_of_ne_zero (imm : BitVec 15) (src2 : Reg) {dest : Reg} (inc : Bool) (s : State) (h : dest ≠ 0#5) :
    bodyFlush imm src2 dest inc s =
      .done () ((s.autoInc inc src2 (s.eaImm (dispFlush imm) src2)).nextFree.setX dest (s.free.extractLsb' 0 32)) := by
  have hfree : (s.autoInc inc src2 (s.eaImm (dispFlush imm) src2)).free = s.free := by
    unfold State.free; rw [State.autoInc_freeCount]
  unfold bodyFlush
  rw [← hfree]
  exact if_neg h

/-- Settles O23: r0 as dest, and any other register, which loses what the auto-increment wrote there. -/
theorem flushEffect : Obligations.FlushEffect := by
  intro s imm src2 dest inc
  have hinc := autoIncremented_autoInc (s := s) (u := s) inc src2 (s.eaImm (dispFlush imm) src2) rfl
  have hbase : inc = true → (s.autoInc inc src2 (s.eaImm (dispFlush imm) src2)).x src2 =
      asGpr src2 (dispFlush imm + s.x src2) := by
    rintro rfl; exact hinc.1
  have hother : ∀ q, (inc = true → q ≠ src2) → (s.autoInc inc src2 (s.eaImm (dispFlush imm) src2)).x q = s.x q := by
    intro q hq
    cases inc with
    | false => rfl
    | true => exact hinc.2 q (hq rfl)
  by_cases h : dest = 0#5
  · subst h
    refine completes_of_leaves rfl ⟨_, bodyFlush_of_zero imm src2 inc s, fun _ => hinc, fun hi _ => hbase hi,
      fun q _ => hother q, rfl, fun _ => by rw [State.autoInc_mem], ?_⟩
    cases inc <;> rfl
  · refine completes_of_leaves rfl ⟨_, bodyFlush_of_ne_zero imm src2 inc s h, fun h0 => absurd h0 h, fun hi hne => ?_,
      fun q hq hq2 => ?_, rfl, fun _ => ?_, ?_⟩
    · exact (State.x_setX_ne _ _ _ _ hne).trans (hbase hi)
    · exact (State.x_setX_ne _ _ _ _ hq).trans (hother q hq2)
    · rw [State.setX_mem, State.nextFree_mem, State.autoInc_mem]
    · rw [if_neg h]
      cases inc <;> rfl

/-! ## Floating-point loads (R74, R170, R176) -/

/-! ### The words of an access -/

/-- Word 0 of an access stands at its address. -/
theorem place_zero (pa : Word) : pa + BitVec.ofNat 32 (4 * 0) = pa := BitVec.add_zero pa

/-- Word `k` of an access, in increasing address order. -/
def Memory.wordAt (m : Memory) (big : Bool) (pa : Word) (k : Nat) : Word := m.word big (pa + BitVec.ofNat 32 (4 * k))

/-- The record of the read of word `k`. -/
def Memory.readAt (m : Memory) (big : Bool) (pa : Word) (k : Nat) : BusAccess :=
  readOf (pa + BitVec.ofNat 32 (4 * k)) 4 (m.wordAt big pa k)

/-- Bits 31:0 of the 64-bit value whose words are `k` and `k + 1`. -/
def Memory.lowAt (m : Memory) (big : Bool) (pa : Word) (k : Nat) : Word := if big then m.wordAt big pa (k + 1) else m.wordAt big pa k

/-- Bits 63:32 of that value. -/
def Memory.highAt (m : Memory) (big : Bool) (pa : Word) (k : Nat) : Word :=
  if big then m.wordAt big pa k else m.wordAt big pa (k + 1)

/-- Eight bytes from word `k` on, read as two words in increasing address order. -/
theorem busRead64_wordAt (pa : Word) (k : Nat) (s : State) : busRead64 (pa + BitVec.ofNat 32 (4 * k)) s =
    .done (joinWords s.be (s.mem.wordAt s.be pa k) (s.mem.wordAt s.be pa (k + 1)))
      { s with bus := s.mem.readAt s.be pa (k + 1) :: s.mem.readAt s.be pa k :: s.bus } := by
  have hnext : pa + BitVec.ofNat 32 (4 * k) + 4#32 = pa + BitVec.ofNat 32 (4 * (k + 1)) := by
    rw [BitVec.add_assoc, ← BitVec.ofNat_add]; rfl
  rw [busRead64_eq, hnext]
  rfl

theorem dataRead64_of_accessible {ea pa : Word} {s t : State} (h : Accessible 3 .read ea s pa t) : dataRead64 ea s =
    .done (joinWords s.be (t.mem.wordAt s.be pa 0) (t.mem.wordAt s.be pa 1))
      { t with bus := [t.mem.readAt s.be pa 1, t.mem.readAt s.be pa 0] ++ t.bus } := by
  have hread := busRead64_wordAt pa 0 t
  rw [be_of_accessible h, place_zero] at hread
  unfold dataRead64
  rw [dataAddress_of_accessible h]
  exact hread

theorem dataRead128_of_accessible {ea pa : Word} {s t : State} (h : Accessible 4 .read ea s pa t) : dataRead128 ea s =
    .done (joinWords s.be (t.mem.wordAt s.be pa 0) (t.mem.wordAt s.be pa 1),
        joinWords s.be (t.mem.wordAt s.be pa 2) (t.mem.wordAt s.be pa 3))
      { t with bus := [t.mem.readAt s.be pa 3, t.mem.readAt s.be pa 2, t.mem.readAt s.be pa 1, t.mem.readAt s.be pa 0] ++ t.bus } := by
  have hfirst := busRead64_wordAt pa 0 t
  rw [place_zero] at hfirst
  unfold dataRead128
  rw [dataAddress_of_accessible h, Exec.bind_done, hfirst, Exec.bind_done,
    show pa + 8#32 = pa + BitVec.ofNat 32 (4 * 2) from rfl, busRead64_wordAt, Exec.bind_done, ← be_of_accessible h]
  rfl

/-! ### The registers written -/

/-- Every floating-point register after a write of a pair. -/
theorem f_setFd_eq (s : State) (r q : Reg) (v : Dword) : (s.setFd r v).f q =
    if q = r + 1#5 then asFpr (r + 1#5) (v.extractLsb' 32 32) else if q = r then asFpr r (v.extractLsb' 0 32) else s.f q := by
  unfold State.setFd State.setPair
  rw [f_setF_eq, f_setF_eq]

/-- The registers after the first of a quad are apart from it and from each other, and past the hard-wired pair (R26, R27). -/
theorem quad_registers {r : Reg} (h : alignedQuad r = true) :
    (r ≠ r + 1#5 ∧ r ≠ r + 2#5 ∧ r ≠ r + 3#5 ∧ r + 1#5 ≠ r + 2#5 ∧ r + 1#5 ≠ r + 3#5 ∧ r + 2#5 ≠ r + 3#5) ∧
      hardF (r + 2#5) = false ∧ hardF (r + 3#5) = false := by
  revert r; decide

/-- Every floating-point register after both pairs of a quad were written. -/
theorem f_setQuad (s : State) {r : Reg} (q : Reg) (low high : Dword) (h : alignedQuad r = true) :
    ((s.setFd r low).setFd (r + 2#5) high).f q =
      if q = r + 3#5 then high.extractLsb' 32 32 else if q = r + 2#5 then high.extractLsb' 0 32
      else if q = r + 1#5 then asFpr (r + 1#5) (low.extractLsb' 32 32) else if q = r then asFpr r (low.extractLsb' 0 32)
      else s.f q := by
  obtain ⟨_, hard2, hard3⟩ := quad_registers h
  have hlast : r + 2#5 + 1#5 = r + 3#5 := BitVec.add_assoc r _ _
  rw [f_setFd_eq, f_setFd_eq, hlast, asFpr_eq (r + 3#5), asFpr_eq (r + 2#5), hard2, hard3]
  rfl

@[simp] theorem State.f_autoInc (s : State) (inc : Bool) (i q : Reg) (v : Word) : (s.autoInc inc i v).f q = s.f q := by
  cases inc <;> rfl

/-! ### The rules -/

/-- What a floating-point load leaves but for its registers. -/
def FloatingLoadFrame (s t : State) (ea : Word) (src2 : Reg) (inc : Bool) (accesses : List BusAccess) (u : State) : Prop :=
  AutoIncremented inc src2 ea s u ∧ MemoryKept t u ∧ MemoryKeptButTables ea s u ∧
    u = { s with gpr := u.gpr, fpr := u.fpr, mem := u.mem, bus := accesses ++ t.bus }

section
variable {k : Nat} {kind : AccessKind} {ea pa : Word} {s t : State} (hm : s.mem.wf = true)
  (hacc : Accessible k kind ea s pa t) (src2 : Reg) (inc : Bool)
include hacc

theorem gpr_fpr_of_accessible : t.gpr = s.gpr ∧ t.fpr = s.fpr := by
  obtain ⟨mem, bus, rfl⟩ := exists_mem_bus_of_accessible hacc
  exact ⟨rfl, rfl⟩

theorem f_of_accessible (q : Reg) : t.f q = s.f q := by
  unfold State.f; rw [(gpr_fpr_of_accessible hacc).2]

include hm

/-- The auto-increment after a rule that wrote neither memory nor a general register. -/
theorem autoInc_of_read {v : State} (hmem : v.mem = t.mem) (hgpr : v.gpr = t.gpr) :
    AutoIncremented inc src2 ea s (v.autoInc inc src2 ea) ∧ MemoryKept t (v.autoInc inc src2 ea) ∧
      MemoryKeptButTables ea s (v.autoInc inc src2 ea) :=
  ⟨autoIncremented_autoInc inc src2 ea (hgpr.trans (gpr_fpr_of_accessible hacc).1),
    memoryKept_of_read hacc hm ((State.autoInc_mem ..).trans hmem)⟩

theorem floatingLoadFrame_autoInc (accesses : List BusAccess) (fpr : Vector Word 32) :
    FloatingLoadFrame s t ea src2 inc accesses
      (State.autoInc { t with fpr := fpr, bus := accesses ++ t.bus } inc src2 ea) := by
  obtain ⟨hinc, hkept, htables⟩ := autoInc_of_read hm hacc src2 inc
    (v := { t with fpr := fpr, bus := accesses ++ t.bus }) rfl rfl
  refine ⟨hinc, hkept, htables, ?_⟩
  obtain ⟨mem, bus, rfl⟩ := exists_mem_bus_of_accessible hacc
  cases inc <;> rfl

end

section
variable {ea pa : Word} {s t : State} (hm : s.mem.wf = true) (src2 fdest : Reg) (inc : Bool)
include hm

theorem fldSingle_leaves (hacc : Accessible 2 .read ea s pa t) : (fldSingle ea src2 fdest inc s).Leaves fun u =>
    u.f fdest = asFpr fdest (t.mem.wordAt s.be pa 0) ∧ FprKeptBut (fun q => q = fdest) s u ∧
      FloatingLoadFrame s t ea src2 inc [t.mem.readAt s.be pa 0] u := by
  unfold Memory.readAt Memory.wordAt fldSingle
  rw [place_zero, dataRead_of_accessible (n := .word) hacc, be_of_accessible hacc]
  refine ⟨_, rfl, ?_, fun q hq => ?_, floatingLoadFrame_autoInc hm hacc src2 inc _ _⟩
  · rw [State.f_autoInc, f_setF_eq, if_pos rfl]; rfl
  · rw [State.f_autoInc, f_setF_eq, if_neg hq]; exact f_of_accessible hacc q

theorem fldDouble_leaves (ha : alignedFor .double fdest = true) (hacc : Accessible 3 .read ea s pa t) :
    (fldDouble ea src2 fdest inc s).Leaves fun u =>
      u.f fdest = asFpr fdest (t.mem.lowAt s.be pa 0) ∧ u.f (fdest + 1#5) = asFpr (fdest + 1#5) (t.mem.highAt s.be pa 0) ∧
        FprKeptBut (fun q => q = fdest ∨ q = fdest + 1#5) s u ∧
        FloatingLoadFrame s t ea src2 inc [t.mem.readAt s.be pa 1, t.mem.readAt s.be pa 0] u := by
  unfold fldDouble
  rw [ha, dataRead64_of_accessible hacc]
  refine ⟨_, rfl, ?_, ?_, fun q hq => ?_, floatingLoadFrame_autoInc hm hacc src2 inc _ _⟩
  · rw [State.f_autoInc, f_setFd_eq, if_neg (reg_succ_ne fdest), if_pos rfl, joinWords_low]; rfl
  · rw [State.f_autoInc, f_setFd_eq, if_pos rfl, joinWords_high]; rfl
  · obtain ⟨hq0, hq1⟩ := not_or.mp hq
    rw [State.f_autoInc, f_setFd_eq, if_neg hq1, if_neg hq0]; exact f_of_accessible hacc q

theorem fldQuad_leaves (ha : alignedQuad fdest = true) (hacc : Accessible 4 .read ea s pa t) :
    (fldQuad ea src2 fdest inc s).Leaves fun u =>
      u.f fdest = asFpr fdest (t.mem.lowAt s.be pa 0) ∧ u.f (fdest + 1#5) = asFpr (fdest + 1#5) (t.mem.highAt s.be pa 0) ∧
        u.f (fdest + 2#5) = t.mem.lowAt s.be pa 2 ∧ u.f (fdest + 3#5) = t.mem.highAt s.be pa 2 ∧
        FprKeptBut (occupiesQuad fdest) s u ∧
        FloatingLoadFrame s t ea src2 inc
          [t.mem.readAt s.be pa 3, t.mem.readAt s.be pa 2, t.mem.readAt s.be pa 1, t.mem.readAt s.be pa 0] u := by
  unfold fldQuad
  rw [ha, dataRead128_of_accessible hacc]
  obtain ⟨⟨h01, h02, h03, h12, h13, h23⟩, _⟩ := quad_registers ha
  refine ⟨_, rfl, ?_, ?_, ?_, ?_, fun q hq => ?_, floatingLoadFrame_autoInc hm hacc src2 inc _ _⟩
  · rw [State.f_autoInc, f_setQuad _ _ _ _ ha, if_neg h03, if_neg h02, if_neg h01, if_pos rfl, joinWords_low]; rfl
  · rw [State.f_autoInc, f_setQuad _ _ _ _ ha, if_neg h13, if_neg h12, if_pos rfl, joinWords_high]; rfl
  · rw [State.f_autoInc, f_setQuad _ _ _ _ ha, if_neg h23, if_pos rfl, joinWords_low]; rfl
  · rw [State.f_autoInc, f_setQuad _ _ _ _ ha, if_pos rfl, joinWords_high]; rfl
  · simp only [occupiesQuad, not_or] at hq
    obtain ⟨hq0, hq1, hq2, hq3⟩ := hq
    rw [State.f_autoInc, f_setQuad _ _ _ _ ha, if_neg hq3, if_neg hq2, if_neg hq1, if_neg hq0]
    exact f_of_accessible hacc q

end

/-- Settles O19: the three sizes, whatever form the address has. -/
theorem floatingLoads : Obligations.FloatingLoads := by
  intro s t pa src2 fdest inc hm
  exact ⟨fun src1 => ⟨fun h => completes_of_leaves rfl (fldSingle_leaves hm src2 fdest inc h),
      fun ha h => completes_of_leaves rfl (fldDouble_leaves hm src2 fdest inc ha h),
      fun ha h => completes_of_leaves rfl (fldQuad_leaves hm src2 fdest inc ha h)⟩,
    fun imm h => completes_of_leaves rfl (fldSingle_leaves hm src2 fdest inc h),
    fun imm => ⟨fun ha h => completes_of_leaves rfl (fldDouble_leaves hm src2 fdest inc ha h),
      fun ha h => completes_of_leaves rfl (fldQuad_leaves hm src2 fdest inc ha h)⟩⟩

/-! ## Floating-point stores (R74, R171, R176) -/

/-! ### Words written one after the other -/

/-- Memory after the words of a store, written in increasing address order. -/
def Memory.setWords (m : Memory) (big : Bool) (pa : Word) : List Word → Memory
  | [] => m
  | v :: vs => (m.setWord big pa v).setWords big (pa + 4#32) vs

/-- Two bytes of one access stand at different addresses, also where it wraps. -/
theorem place_ne (pa : Word) {i j : Nat} (hi : i < 2 ^ 32) (hj : j < 2 ^ 32) (h : i ≠ j) :
    pa + BitVec.ofNat 32 i ≠ pa + BitVec.ofNat 32 j := by
  refine word_add_ne pa _ _ fun e => h ?_
  have htoNat := congrArg BitVec.toNat e
  rwa [BitVec.toNat_ofNat, BitVec.toNat_ofNat, Nat.mod_eq_of_lt hi, Nat.mod_eq_of_lt hj] at htoNat

/-- A byte counted from the next word on. -/
theorem place_succ (pa : Word) (k : Nat) : pa + 4#32 + BitVec.ofNat 32 k = pa + BitVec.ofNat 32 (4 + k) := by
  rw [BitVec.add_assoc, ← BitVec.ofNat_add]

/-- A word counted from the next word on. -/
theorem place_succ_word (pa : Word) (k : Nat) :
    pa + BitVec.ofNat 32 (4 * (k + 1)) = pa + 4#32 + BitVec.ofNat 32 (4 * k) := by
  rw [place_succ]; congr 2; omega

namespace Memory

/-- The words written leave every byte outside them alone. -/
theorem byteAt_setWords_of_ne {m : Memory} (h : m.wf = true) (big : Bool) (pa : Word) (vs : List Word) {c : Word}
    (hc : ∀ k, k < 4 * vs.length → c ≠ pa + BitVec.ofNat 32 k) : (m.setWords big pa vs).byteAt c = m.byteAt c := by
  induction vs generalizing m pa with
  | nil => rfl
  | cons v vs ih =>
    rw [List.length_cons] at hc
    have htail : ∀ k, k < 4 * vs.length → c ≠ pa + 4#32 + BitVec.ofNat 32 k := fun k hk => by
      rw [place_succ]; exact hc _ (by omega)
    refine (ih (wf_setWord h big pa v) _ htail).trans ?_
    exact byteAt_setWord_of_ne h big pa v c fun k hk => hc k (by omega)

/-- Each of the words written reads back: the later ones stand outside it. -/
theorem word_setWords {m : Memory} (h : m.wf = true) (big : Bool) (pa : Word) {vs : List Word} (hlen : 4 * vs.length ≤ 2 ^ 32)
    {k : Nat} (hk : k < vs.length) : (m.setWords big pa vs).word big (pa + BitVec.ofNat 32 (4 * k)) = vs[k] := by
  induction vs generalizing m pa k with
  | nil => cases hk
  | cons v vs ih =>
    rw [List.length_cons] at hlen hk
    have hwf := wf_setWord h big pa v
    cases k with
    | zero =>
      have hkept : ∀ j, j < 4 → ((m.setWord big pa v).setWords big (pa + 4#32) vs).byteAt (pa + BitVec.ofNat 32 j) =
          (m.setWord big pa v).byteAt (pa + BitVec.ofNat 32 j) := fun j hj =>
        byteAt_setWords_of_ne hwf big _ vs fun i hi => by
          rw [place_succ]; exact place_ne pa (by omega) (by omega) (by omega)
      have hword : ((m.setWord big pa v).setWords big (pa + 4#32) vs).word big pa = (m.setWord big pa v).word big pa := by
        have h0 := hkept 0 (by decide)
        rw [BitVec.add_zero] at h0
        unfold word
        rw [h0, hkept 1 (by decide), hkept 2 (by decide), hkept 3 (by decide)]
      rw [place_zero]
      exact hword.trans (word_setWord h big pa v)
    | succ k =>
      rw [place_succ_word]
      exact ih hwf (pa + 4#32) (by omega) (by omega)

theorem setWords_append (m : Memory) (big : Bool) (pa : Word) (vs vs' : List Word) :
    m.setWords big pa (vs ++ vs') = (m.setWords big pa vs).setWords big (pa + BitVec.ofNat 32 (4 * vs.length)) vs' := by
  induction vs generalizing m pa with
  | nil => rw [List.nil_append, List.length_nil, place_zero]; rfl
  | cons v vs ih =>
    rw [List.length_cons, place_succ_word]
    exact ih _ _

end Memory

/-! ### The words of a register pair -/

/-- The word of a register pair that stands at the lower address. -/
def State.firstOf (s : State) (r : Reg) : Word := if s.be then s.f (r + 1#5) else s.f r

/-- The word of a register pair that stands at the higher address. -/
def State.secondOf (s : State) (r : Reg) : Word := if s.be then s.f r else s.f (r + 1#5)

theorem firstWord_fd (s : State) (r : Reg) : firstWord s.be (s.fd r) = s.firstOf r := by
  unfold firstWord State.firstOf State.fd
  rw [BitVec.extractLsb'_append_eq_left, BitVec.extractLsb'_append_eq_right]

theorem secondWord_fd (s : State) (r : Reg) : secondWord s.be (s.fd r) = s.secondOf r := by
  unfold secondWord State.secondOf State.fd
  rw [BitVec.extractLsb'_append_eq_left, BitVec.extractLsb'_append_eq_right]

/-! ### The rules -/

/-- The state after the words of a store. -/
def State.storeWords (t : State) (pa : Word) (vs : List Word) (accesses : List BusAccess) : State :=
  { t with mem := t.mem.setWords t.be pa vs, bus := accesses ++ t.bus }

/-- What a floating-point store of `n` bytes leaves but for the bytes stored. -/
def FloatingStoreFrame (s t : State) (ea pa : Word) (src2 : Reg) (inc : Bool) (n : Nat) (accesses : List BusAccess) (u : State) :
    Prop :=
  AutoIncremented inc src2 ea s u ∧ MemoryKeptBut pa n t u ∧ MemoryKeptButStore ea pa n s u ∧
    u = { s with gpr := u.gpr, mem := u.mem, bus := accesses ++ t.bus }

/-- Word `k` of a store, read in the data byte order. -/
def ReadsAt (s : State) (pa : Word) (k : Nat) (v : Word) (u : State) : Prop :=
  u.mem.word s.be (pa + BitVec.ofNat 32 (4 * k)) = v

/-- The record of the write of word `k`. -/
def writeAt (pa : Word) (k : Nat) (v : Word) : BusAccess := writeOf (pa + BitVec.ofNat 32 (4 * k)) 4 v

section
variable {n : Nat} {ea pa : Word} {s t : State} (hm : s.mem.wf = true) (hacc : Accessible n .write ea s pa t) (src2 : Reg)
  (inc : Bool)
include hm hacc

theorem floatingStoreFrame_storeWords (vs : List Word) (accesses : List BusAccess) :
    FloatingStoreFrame s t ea pa src2 inc (4 * vs.length) accesses
      ((t.storeWords pa vs accesses).autoInc inc src2 ea) := by
  have hkept : MemoryKeptBut pa (4 * vs.length) t ((t.storeWords pa vs accesses).autoInc inc src2 ea) := fun a ha => by
    rw [State.autoInc_mem]
    exact Memory.byteAt_setWords_of_ne (mem_wf_of_accessible hacc hm) t.be pa vs ha
  obtain ⟨hout, htables⟩ := memoryKept_of_write hacc hm hkept
  refine ⟨autoIncremented_autoInc inc src2 ea (gpr_fpr_of_accessible hacc).1, hout, htables, ?_⟩
  obtain ⟨mem, bus, rfl⟩ := exists_mem_bus_of_accessible hacc
  cases inc <;> rfl

theorem readsAt_storeWords {vs : List Word} {accesses : List BusAccess} (hlen : 4 * vs.length ≤ 2 ^ 32) {k : Nat} {v : Word}
    (hv : vs[k]? = some v) : ReadsAt s pa k v ((t.storeWords pa vs accesses).autoInc inc src2 ea) := by
  obtain ⟨hk, rfl⟩ := List.getElem?_eq_some_iff.mp hv
  unfold ReadsAt
  rw [State.autoInc_mem, ← be_of_accessible hacc]
  exact Memory.word_setWords (mem_wf_of_accessible hacc hm) t.be pa hlen hk

end

/-- Eight bytes, as the words of a store. -/
theorem busWrite64_eq (pa : Word) (v : Dword) (t : State) : busWrite64 pa v t =
    t.storeWords pa [firstWord t.be v, secondWord t.be v] [writeAt pa 1 (secondWord t.be v), writeAt pa 0 (firstWord t.be v)] := by
  unfold State.storeWords writeAt
  rw [place_zero]
  rfl

/-- A store that goes on where another ended is one store. -/
theorem storeWords_append (t : State) (pa : Word) (vs vs' : List Word) (accesses accesses' : List BusAccess) :
    (t.storeWords pa vs accesses).storeWords (pa + BitVec.ofNat 32 (4 * vs.length)) vs' accesses' =
      t.storeWords pa (vs ++ vs') (accesses' ++ accesses) := by
  unfold State.storeWords
  rw [Memory.setWords_append, List.append_assoc]
  rfl

theorem writeAt_eight (pa : Word) (k : Nat) (v : Word) : writeAt (pa + 8#32) k v = writeAt pa (k + 2) v := by
  have hplace : pa + 8#32 + BitVec.ofNat 32 (4 * k) = pa + BitVec.ofNat 32 (4 * (k + 2)) := by
    rw [BitVec.add_assoc, ← BitVec.ofNat_add]; congr 2; omega
  unfold writeAt
  rw [hplace]

/-- Sixteen bytes, as the words of a store. -/
theorem busWrite64_twice (pa : Word) (low high : Dword) (t : State) : busWrite64 (pa + 8#32) high (busWrite64 pa low t) =
    t.storeWords pa [firstWord t.be low, secondWord t.be low, firstWord t.be high, secondWord t.be high]
      [writeAt pa 3 (secondWord t.be high), writeAt pa 2 (firstWord t.be high), writeAt pa 1 (secondWord t.be low),
        writeAt pa 0 (firstWord t.be low)] := by
  rw [busWrite64_eq, busWrite64_eq, writeAt_eight, writeAt_eight]
  exact storeWords_append t pa [firstWord t.be low, secondWord t.be low] _ _ _

section
variable {ea pa : Word} {s t : State} (hm : s.mem.wf = true) (src2 fdest : Reg) (inc : Bool)
include hm

theorem fstSingle_leaves (hacc : Accessible 2 .write ea s pa t) : (fstSingle ea src2 fdest inc s).Leaves fun u =>
    u.mem.word s.be pa = s.f fdest ∧
      FloatingStoreFrame s t ea pa src2 inc 4 [writeOf pa 4 (s.f fdest)] u := by
  unfold fstSingle
  rw [dataWrite_of_accessible (n := .word) hacc]
  refine ⟨_, rfl, ?_, floatingStoreFrame_storeWords hm hacc src2 inc [s.f fdest] [writeOf pa 4 (s.f fdest)]⟩
  rw [State.autoInc_mem, ← be_of_accessible hacc]
  exact Memory.word_setWord (mem_wf_of_accessible hacc hm) t.be pa _

theorem fstDouble_leaves (ha : alignedFor .double fdest = true) (hacc : Accessible 3 .write ea s pa t) :
    (fstDouble ea src2 fdest inc s).Leaves fun u =>
      ReadsAt s pa 0 (s.firstOf fdest) u ∧ ReadsAt s pa 1 (s.secondOf fdest) u ∧
        FloatingStoreFrame s t ea pa src2 inc 8 [writeAt pa 1 (s.secondOf fdest), writeAt pa 0 (s.firstOf fdest)] u := by
  have hrule : dataWrite64 ea (s.fd fdest) s = .done () (t.storeWords pa [s.firstOf fdest, s.secondOf fdest]
      [writeAt pa 1 (s.secondOf fdest), writeAt pa 0 (s.firstOf fdest)]) := by
    unfold dataWrite64
    rw [dataAddress_of_accessible hacc, Exec.bind_done, busWrite64_eq, be_of_accessible hacc, firstWord_fd, secondWord_fd]
  unfold fstDouble
  rw [ha, hrule]
  have hlen : 4 * [s.firstOf fdest, s.secondOf fdest].length ≤ 2 ^ 32 := by simp
  exact ⟨_, rfl, readsAt_storeWords hm hacc src2 inc hlen rfl, readsAt_storeWords hm hacc src2 inc hlen rfl,
    floatingStoreFrame_storeWords hm hacc src2 inc _ _⟩

theorem fstQuad_leaves (ha : alignedQuad fdest = true) (hacc : Accessible 4 .write ea s pa t) :
    (fstQuad ea src2 fdest inc s).Leaves fun u =>
      ReadsAt s pa 0 (s.firstOf fdest) u ∧ ReadsAt s pa 1 (s.secondOf fdest) u ∧
        ReadsAt s pa 2 (s.firstOf (fdest + 2#5)) u ∧ ReadsAt s pa 3 (s.secondOf (fdest + 2#5)) u ∧
        FloatingStoreFrame s t ea pa src2 inc 16 [writeAt pa 3 (s.secondOf (fdest + 2#5)),
          writeAt pa 2 (s.firstOf (fdest + 2#5)), writeAt pa 1 (s.secondOf fdest), writeAt pa 0 (s.firstOf fdest)] u := by
  have hrule : dataWrite128 ea (s.fd fdest) (s.fd (fdest + 2#5)) s = .done () (t.storeWords pa
      [s.firstOf fdest, s.secondOf fdest, s.firstOf (fdest + 2#5), s.secondOf (fdest + 2#5)]
      [writeAt pa 3 (s.secondOf (fdest + 2#5)), writeAt pa 2 (s.firstOf (fdest + 2#5)), writeAt pa 1 (s.secondOf fdest),
        writeAt pa 0 (s.firstOf fdest)]) := by
    unfold dataWrite128
    rw [dataAddress_of_accessible hacc, Exec.bind_done, busWrite64_twice, be_of_accessible hacc, firstWord_fd, secondWord_fd,
      firstWord_fd, secondWord_fd]
  unfold fstQuad
  rw [ha, hrule]
  have hlen : 4 * [s.firstOf fdest, s.secondOf fdest, s.firstOf (fdest + 2#5), s.secondOf (fdest + 2#5)].length ≤ 2 ^ 32 := by
    simp
  exact ⟨_, rfl, readsAt_storeWords hm hacc src2 inc hlen rfl, readsAt_storeWords hm hacc src2 inc hlen rfl,
    readsAt_storeWords hm hacc src2 inc hlen rfl, readsAt_storeWords hm hacc src2 inc hlen rfl,
    floatingStoreFrame_storeWords hm hacc src2 inc _ _⟩

end

/-- Settles O20: the three sizes, whatever form the address has. -/
theorem floatingStores : Obligations.FloatingStores := by
  intro s t pa src2 fdest inc hm
  exact ⟨fun src1 => ⟨fun h => completes_of_leaves rfl (fstSingle_leaves hm src2 fdest inc h),
      fun ha h => completes_of_leaves rfl (fstDouble_leaves hm src2 fdest inc ha h),
      fun ha h => completes_of_leaves rfl (fstQuad_leaves hm src2 fdest inc ha h)⟩,
    fun imm h => completes_of_leaves rfl (fstSingle_leaves hm src2 fdest inc h),
    fun imm => ⟨fun ha h => completes_of_leaves rfl (fstDouble_leaves hm src2 fdest inc ha h),
      fun ha h => completes_of_leaves rfl (fstQuad_leaves hm src2 fdest inc ha h)⟩⟩

/-! ## Pipelined loads (R98, R172, R312, R322) -/

/-- What pfld leaves: the entry leaving the load pipeline in fdest, the value read in the pipeline, and the frame. -/
def PipelinedLoadEffect (s t : State) (ea : Word) (src2 fdest : Reg) (inc : Bool) (e : Entry) (accesses : List BusAccess)
    (u : State) : Prop :=
  Retired s s.loader.s3 e.prec fdest u ∧ AutoIncremented inc src2 ea s u ∧ MemoryKept t u ∧ MemoryKeptButTables ea s u ∧
    u = { s with
      gpr := u.gpr, fpr := u.fpr, mem := u.mem, bus := accesses ++ t.bus, freeCount := u.freeCount
      loader := { s1 := some e, s2 := s.loader.s1, s3 := s.loader.s2 } }

/-- What retired stands in its destination wherever the floating-point registers read the same, as after the auto-increment. -/
theorem retired_congr {s u v : State} {e : Option Entry} {r : Prec} {dest : Reg} (h : Retired s e r dest u)
    (hf : ∀ q, v.f q = u.f q) : Retired s e r dest v := by
  cases e with
  | none => exact fun q hq => (hf q).trans (h q hq)
  | some e =>
    cases hp : e.prec with
    | single =>
      simp only [Retired, FpWritten, hp] at h ⊢
      obtain ⟨hkept, hdest⟩ := h
      exact ⟨fun q hq => (hf q).trans (hkept q hq), (hf _).trans hdest⟩
    | double =>
      simp only [Retired, FpWritten, hp] at h ⊢
      obtain ⟨hkept, hlow, hhigh⟩ := h
      exact ⟨fun q hq => (hf q).trans (hkept q hq), (hf _).trans hlow, (hf _).trans hhigh⟩

section
variable {k : Nat} {ea pa : Word} {s t : State} (hm : s.mem.wf = true) (src2 : Reg) {fdest : Reg} (inc : Bool)
  (hfits : retireFits s.loader.s3 fdest = true)
include hm hfits

/-- The issue and the auto-increment, after the accesses. -/
theorem issueLoader_leaves (hacc : Accessible k .read ea s pa t) (e : Entry) (accesses : List BusAccess) :
    ((issueLoader e.prec fdest (some e) { t with bus := accesses ++ t.bus }).bind fun _ s2 =>
      .done () (s2.autoInc inc src2 ea)).Leaves (PipelinedLoadEffect s t ea src2 fdest inc e accesses) := by
  have hloader := loader_of_accessible hacc
  obtain ⟨u, hu, hretired, hkept⟩ := retire_of_fits (r := e.prec) hfits (s := s)
    (t := { t with bus := accesses ++ t.bus, loader := t.loader.push3 (some e) }) (gpr_fpr_of_accessible hacc).2
  have hissue : issueLoader e.prec fdest (some e) { t with bus := accesses ++ t.bus } = .done () u := by
    rw [← hu, ← hloader]; rfl
  rw [hissue]
  obtain ⟨hinc, hread, htables⟩ := autoInc_of_read hm hacc src2 inc (v := u) (by rw [hkept]) (by rw [hkept])
  refine ⟨_, rfl, retired_congr hretired fun q => State.f_autoInc .., hinc, hread, htables, ?_⟩
  rw [hkept]
  obtain ⟨mem, bus, rfl⟩ := exists_mem_bus_of_accessible hacc
  cases inc <;> rfl

theorem pfldSingle_leaves (hacc : Accessible 2 .read ea s pa t) :
    (pfldSingle ea src2 fdest inc s).Leaves (PipelinedLoadEffect s t ea src2 fdest inc
      { value := (t.mem.wordAt s.be pa 0).setWidth 64, prec := .single } [t.mem.readAt s.be pa 0]) := by
  have hentry : entryOf .single ((t.mem.word s.be pa).setWidth 64) =
      { value := (t.mem.word s.be pa).setWidth 64, prec := .single } := by
    unfold entryOf; rw [extractLsb'_setWidth_of_le _ (by decide)]
  unfold Memory.readAt Memory.wordAt pfldSingle
  rw [place_zero, dataRead_of_accessible (n := .word) hacc, be_of_accessible hacc, Exec.bind_done,
    show t.mem.busValue .word s.be pa = t.mem.word s.be pa from rfl, hentry]
  exact issueLoader_leaves hm src2 inc hfits hacc { value := (t.mem.word s.be pa).setWidth 64, prec := .single }
    [readOf pa 4 (t.mem.word s.be pa)]

theorem pfldDouble_leaves (hacc : Accessible 3 .read ea s pa t) :
    (pfldDouble ea src2 fdest inc s).Leaves (PipelinedLoadEffect s t ea src2 fdest inc
      { value := joinWords s.be (t.mem.wordAt s.be pa 0) (t.mem.wordAt s.be pa 1), prec := .double }
      [t.mem.readAt s.be pa 1, t.mem.readAt s.be pa 0]) := by
  unfold pfldDouble
  rw [dataRead64_of_accessible hacc]
  exact issueLoader_leaves hm src2 inc hfits hacc _ _

end

/-- Settles O21: the two sizes, whatever form the address has. -/
theorem pipelinedLoads : Obligations.PipelinedLoads := by
  intro s t pa src2 fdest inc hm
  exact ⟨fun src1 => ⟨fun hf h => completes_of_leaves rfl (pfldSingle_leaves hm src2 inc hf h),
      fun hf h => completes_of_leaves rfl (pfldDouble_leaves hm src2 inc hf h)⟩,
    fun imm hf h => completes_of_leaves rfl (pfldSingle_leaves hm src2 inc hf h),
    fun imm hf h => completes_of_leaves rfl (pfldDouble_leaves hm src2 inc hf h)⟩

/-! ## Pixel store (R173) -/

/-! ### The bytes of a bus write -/

/-- A byte of a field that starts at bit 0. -/
theorem extractLsb'_extractLsb'_of_le {w n : Nat} (v : BitVec w) {c : Nat} (h : c + 8 ≤ n) :
    (v.extractLsb' 0 n).extractLsb' c 8 = v.extractLsb' c 8 := by
  apply BitVec.eq_of_getLsbD_eq
  intro k hk
  have hn : c + k < n := by omega
  simp [hk, hn]

/-- Byte `k` of a bus write: the least significant first in little-endian order, last in big-endian order (R70, R71). -/
theorem Memory.byteAt_busStore_place {m : Memory} (h : m.wf = true) (n : BusSize) (big : Bool) (a v : Word) {k : Nat}
    (hk : k < n.bytes) :
    (m.busStore n big a v).byteAt (a + BitVec.ofNat 32 k) = v.extractLsb' (8 * (if big then n.bytes - 1 - k else k)) 8 := by
  cases n with
  | byte =>
    obtain rfl : k = 0 := by simpa [BusSize.bytes] using hk
    rw [BitVec.add_zero]
    refine (Memory.byteAt_setByte h a a _).trans ?_
    cases big <;> exact if_pos rfl
  | half =>
    refine (Memory.byteAt_setHalf_place h big a _ hk).trans (extractLsb'_extractLsb'_of_le v ?_)
    simp only [BusSize.bytes] at hk
    split <;> omega
  | word => exact Memory.byteAt_setWord_place h big a v hk

/-! ### Where a pixel stands -/

/-- The byte of the 64-bit value that belongs at place `j` of the eight bytes (R71). -/
def valueByte (big : Bool) (j : Nat) : Nat := if big then 7 - j else j

/-- Place `j` lies in pixel `i` when its byte of the value does. -/
theorem mem_pixel_iff {n : BusSize} {big : Bool} {i j : Nat} (hi : i < pixelCount n) (hj : j < 8) :
    pixelOffset n big i ≤ j ∧ j < pixelOffset n big i + n.bytes ↔ valueByte big j / n.bytes = i := by
  cases n <;> cases big <;> simp [pixelCount, pixelOffset, valueByte, BusSize.bytes] at hi ⊢ <;> omega

/-- A pixel lies within the eight bytes. -/
theorem pixelOffset_add_le {n : BusSize} {big : Bool} {i : Nat} (hi : i < pixelCount n) : pixelOffset n big i + n.bytes ≤ 8 := by
  cases n <;> cases big <;> simp [pixelCount, pixelOffset, BusSize.bytes] at hi ⊢ <;> omega

/-- The bytes of a pixel stand in the data byte order. -/
theorem pixel_byte {n : BusSize} {big : Bool} {i j : Nat} (hi : i < pixelCount n) (hle : pixelOffset n big i ≤ j)
    (hlt : j < pixelOffset n big i + n.bytes) :
    n.bytes * i + (if big then n.bytes - 1 - (j - pixelOffset n big i) else j - pixelOffset n big i) = valueByte big j := by
  cases n <;> cases big <;> simp [pixelCount, pixelOffset, valueByte, BusSize.bytes] at hi hle hlt ⊢ <;> omega

/-- A byte of a pixel is a byte of the value. -/
theorem extractLsb'_pixelOf (n : BusSize) (v : Dword) (i : Nat) {c : Nat} (hc : c < 4) :
    (pixelOf n v i).extractLsb' (8 * c) 8 = v.extractLsb' (8 * (n.bytes * i + c)) 8 := by
  apply BitVec.eq_of_getLsbD_eq
  intro k hk
  have hword : 8 * c + k < 32 := by omega
  have hplace : 8 * n.bytes * i + (8 * c + k) = 8 * (n.bytes * i + c) + k := by ring
  unfold pixelOf
  rw [BitVec.getLsbD_extractLsb', BitVec.getLsbD_extractLsb', BitVec.getLsbD_setWidth, BitVec.getLsbD_ushiftRight, hplace]
  simp [hword]

/-- The value recorded for a pixel. -/
theorem low_pixelOf (n : BusSize) (v : Dword) (i : Nat) :
    n.low (pixelOf n v i) = BitVec.ofNat 32 (v.toNat / 2 ^ (8 * n.bytes * i) % 2 ^ (8 * n.bytes)) := by
  apply BitVec.eq_of_toNat_eq
  unfold pixelOf
  generalize hshift : 8 * n.bytes * i = shift
  cases n <;>
    simp only [BusSize.low, BusSize.bytes, BitVec.toNat_setWidth, BitVec.extractLsb'_toNat, BitVec.toNat_ushiftRight,
      BitVec.toNat_ofNat, Nat.shiftRight_eq_div_pow] <;> omega

/-! ### The pixels stored -/

/-- Memory after pixel `i` was stored if its mask bit is 1. -/
def Memory.storePixel (n : BusSize) (big : Bool) (pm : BitVec 8) (pa : Word) (v : Dword) (m : Memory) (i : Nat) : Memory :=
  if pm.getLsbD i then m.busStore n big (pa + BitVec.ofNat 32 (pixelOffset n big i)) (pixelOf n v i) else m

/-- The record of pixel `i` stored. -/
def pixelWrite (n : BusSize) (big : Bool) (pa : Word) (v : Dword) (i : Nat) : BusAccess :=
  writeOf (pa + BitVec.ofNat 32 (pixelOffset n big i)) n.bytes (n.low (pixelOf n v i))

/-- What storing pixels does: memory pixel by pixel, and one record for each selected pixel, newest first. -/
theorem foldl_storePixel (n : BusSize) (pm : BitVec 8) (pa : Word) (v : Dword) (l : List Nat) (s : State) :
    l.foldl (storePixel n pm pa v) s = { s with
      mem := l.foldl (Memory.storePixel n s.be pm pa v) s.mem
      bus := ((l.filter fun i => pm.getLsbD i).map (pixelWrite n s.be pa v)).reverse ++ s.bus } := by
  induction l generalizing s with
  | nil => rfl
  | cons i l ih =>
    rw [List.foldl_cons, List.foldl_cons, ih]
    cases hi : pm.getLsbD i with
    | false =>
      have hstate : storePixel n pm pa v s i = s := by unfold storePixel; rw [hi]; rfl
      have hmem : Memory.storePixel n s.be pm pa v s.mem i = s.mem := by unfold Memory.storePixel; rw [hi]; rfl
      rw [hstate, hmem, List.filter_cons_of_neg (by simp [hi])]
    | true =>
      have hstate : storePixel n pm pa v s i =
          busWrite n s.be (pa + BitVec.ofNat 32 (pixelOffset n s.be i)) (pixelOf n v i) s := by
        unfold storePixel; rw [hi]; rfl
      have hmem : Memory.storePixel n s.be pm pa v s.mem i =
          s.mem.busStore n s.be (pa + BitVec.ofNat 32 (pixelOffset n s.be i)) (pixelOf n v i) := by
        unfold Memory.storePixel; rw [hi]; rfl
      rw [hstate, hmem, List.filter_cons_of_pos (by simp [hi]), List.map_cons, List.reverse_cons, List.append_assoc]
      rfl

section
variable {m : Memory} (h : m.wf = true) (n : BusSize) (big : Bool) (pm : BitVec 8) (pa : Word) (v : Dword)
include h

theorem Memory.wf_storePixel (i : Nat) : (m.storePixel n big pm pa v i).wf = true := by
  unfold Memory.storePixel
  split
  · exact Memory.wf_busStore h ..
  · exact h

/-- A pixel stored takes its own bytes of the value; the others of the eight are kept. -/
theorem Memory.byteAt_storePixel {i j : Nat} (hi : i < pixelCount n) (hj : j < 8) :
    (m.storePixel n big pm pa v i).byteAt (pa + BitVec.ofNat 32 j) =
      if pm.getLsbD i = true ∧ valueByte big j / n.bytes = i then v.extractLsb' (8 * valueByte big j) 8
      else m.byteAt (pa + BitVec.ofNat 32 j) := by
  have hoff := pixelOffset_add_le (big := big) hi
  have hplace : ∀ k, pa + BitVec.ofNat 32 (pixelOffset n big i) + BitVec.ofNat 32 k =
      pa + BitVec.ofNat 32 (pixelOffset n big i + k) := fun k => by rw [BitVec.add_assoc, ← BitVec.ofNat_add]
  unfold Memory.storePixel
  cases hpm : pm.getLsbD i with
  | false => simp
  | true =>
    rw [if_pos rfl]
    by_cases hin : valueByte big j / n.bytes = i
    · obtain ⟨hle, hlt⟩ := (mem_pixel_iff hi hj).mpr hin
      have hb := Memory.byteAt_busStore_place h n big (pa + BitVec.ofNat 32 (pixelOffset n big i)) (pixelOf n v i)
        (k := j - pixelOffset n big i) (by omega)
      rw [hplace, Nat.add_sub_cancel' hle, extractLsb'_pixelOf, pixel_byte hi hle hlt] at hb
      · rw [hb, if_pos ⟨rfl, hin⟩]
      · cases n <;> simp only [BusSize.bytes] at hlt ⊢ <;> split <;> omega
    · rw [if_neg fun e => hin e.2]
      refine Memory.byteAt_busStore_of_ne h n big _ _ fun k hk => ?_
      rw [hplace]
      refine place_ne pa (by omega) (by omega) fun e => hin ((mem_pixel_iff hi hj).mp ?_)
      omega

/-- A pixel stored leaves every byte outside the eight alone. -/
theorem Memory.byteAt_storePixel_of_ne {i : Nat} (hi : i < pixelCount n) {a : Word}
    (ha : ∀ k, k < 8 → a ≠ pa + BitVec.ofNat 32 k) : (m.storePixel n big pm pa v i).byteAt a = m.byteAt a := by
  unfold Memory.storePixel
  split
  · refine Memory.byteAt_busStore_of_ne h n big _ _ fun k hk => ?_
    have hoff := pixelOffset_add_le (big := big) hi
    rw [BitVec.add_assoc, ← BitVec.ofNat_add]
    exact ha _ (by omega)
  · rfl

/-- The first pixels stored: the canonical form is kept, the selected ones took their bytes, and nothing else changed. -/
theorem Memory.storePixels_spec {c : Nat} (hc : c ≤ pixelCount n) :
    let u := (List.range c).foldl (Memory.storePixel n big pm pa v) m
    u.wf = true ∧
      (∀ j, j < 8 → u.byteAt (pa + BitVec.ofNat 32 j) =
        if pm.getLsbD (valueByte big j / n.bytes) = true ∧ valueByte big j / n.bytes < c then v.extractLsb' (8 * valueByte big j) 8
        else m.byteAt (pa + BitVec.ofNat 32 j)) ∧
      ∀ a, (∀ k, k < 8 → a ≠ pa + BitVec.ofNat 32 k) → u.byteAt a = m.byteAt a := by
  induction c with
  | zero => exact ⟨h, fun j _ => by simp, fun _ _ => rfl⟩
  | succ c ih =>
    obtain ⟨hwf, hin, hout⟩ := ih (by omega)
    simp only [List.range_succ, List.foldl_append, List.foldl_cons, List.foldl_nil]
    refine ⟨Memory.wf_storePixel hwf .., fun j hj => ?_, fun a ha => ?_⟩
    · rw [Memory.byteAt_storePixel hwf n big pm pa v hc hj, hin j hj]
      by_cases hlast : valueByte big j / n.bytes = c
      · simp [hlast]
      · have hlt : valueByte big j / n.bytes < c + 1 ↔ valueByte big j / n.bytes < c := by omega
        simp [hlast, hlt]
    · rw [Memory.byteAt_storePixel_of_ne hwf n big pm pa v hc ha, hout a ha]

end

/-! ### The rule -/

/-- The three pixel sizes (R173). -/
theorem exists_pixelSize {ps : BitVec 2} {w : Nat} (h : ps = 0#2 ∧ w = 1 ∨ ps = 1#2 ∧ w = 2 ∨ ps = 2#2 ∧ w = 4) :
    ∃ n, pixelSize ps = some n ∧ n.bytes = w := by
  obtain ⟨rfl, rfl⟩ | ⟨rfl, rfl⟩ | ⟨rfl, rfl⟩ := h
  · exact ⟨.byte, rfl, rfl⟩
  · exact ⟨.half, rfl, rfl⟩
  · exact ⟨.word, rfl, rfl⟩

theorem pixelCount_eq (n : BusSize) : pixelCount n = 8 / n.bytes := by cases n <;> rfl

/-- Every byte of the value lies in a pixel. -/
theorem valueByte_div_lt (n : BusSize) (big : Bool) {j : Nat} (hj : j < 8) : valueByte big j / n.bytes < pixelCount n := by
  cases n <;> cases big <;> simp [valueByte, pixelCount, BusSize.bytes] <;> omega

/-- The state pst.d leaves before the auto-increment, `t` being what the translation left: the pixels stored, and PM shifted. -/
def pixelsStored (s t : State) (n : BusSize) (pa : Word) (v : Dword) : State :=
  { t with
    mem := (List.range (pixelCount n)).foldl (Memory.storePixel n s.be s.pm pa v) t.mem
    bus := (((List.range (pixelCount n)).filter fun i => s.pm.getLsbD i).map (pixelWrite n s.be pa v)).reverse ++ t.bus
    psr := setField s.psr 24 (s.pm >>> pixelCount n) }

/-- pst.d whose access goes through (R173). -/
theorem bodyPstd_of_accessible {s t : State} {pa : Word} {fdest src2 : Reg} {imm : BitVec 13} (inc : Bool) {n : BusSize}
    (ha : alignedFor .double fdest = true) (hn : pixelSize s.ps = some n)
    (hacc : Accessible 3 .write (dispFd imm + s.x src2) s pa t) :
    bodyPstd fdest imm src2 inc s =
      .done () ((pixelsStored s t n pa (s.fd fdest)).autoInc inc src2 (dispFd imm + s.x src2)) := by
  have hpixels : (storePixels n s.pm pa (s.fd fdest) t).setPM (s.pm >>> pixelCount n) = pixelsStored s t n pa (s.fd fdest) := by
    unfold storePixels
    rw [foldl_storePixel, be_of_accessible hacc]
    obtain ⟨mem, bus, rfl⟩ := exists_mem_bus_of_accessible hacc
    rfl
  rw [← hpixels]
  unfold bodyPstd State.eaImm
  rw [ha, hn, dataAddress_of_accessible hacc]
  rfl

/-- PM set: its eight bits, and every other bit of psr. -/
theorem pm_of_setField {s u : State} {pm : BitVec 8} (h : u.psr = setField s.psr 24 pm) :
    u.psr.extractLsb' 24 8 = pm ∧ PsrKeptBut (fun k => 24 ≤ k) s u := by
  refine ⟨by rw [h, extractLsb'_setField_self _ _ _ (by decide)], fun k hk => ?_⟩
  rw [h, getLsbD_setField _ _ _ _ (by decide), if_neg fun e => hk e.1]

/-- Settles O22: the pixels stored one by one, the shift of PM, and the auto-increment. -/
theorem pixelStore : Obligations.PixelStore := by
  intro s t pa fdest imm src2 inc w ea hm ha hps hacc
  obtain ⟨n, hn, rfl⟩ := exists_pixelSize hps
  obtain ⟨_, hbytes, hrest⟩ := Memory.storePixels_spec (mem_wf_of_accessible hacc hm) n s.be s.pm pa (s.fd fdest) (le_refl _)
  have hmem := State.autoInc_mem (pixelsStored s t n pa (s.fd fdest)) inc src2 ea
  obtain ⟨hpm, hkept⟩ := pm_of_setField (State.autoInc_psr (pixelsStored s t n pa (s.fd fdest)) inc src2 ea)
  obtain ⟨hout, htables⟩ := memoryKept_of_write hacc hm fun a hne => (congrArg (·.byteAt a) hmem).trans (hrest a hne)
  refine completes_of_leaves rfl ⟨_, bodyPstd_of_accessible inc ha hn hacc, fun j hj => ?_, hout, htables,
    pixelCount_eq n ▸ hpm, hkept, autoIncremented_autoInc inc src2 ea (gpr_fpr_of_accessible hacc).1, ?_⟩
  · rw [hmem]
    refine (hbytes j hj).trans ?_
    simp only [valueByte_div_lt n s.be hj, and_true]
    rfl
  · simp only [← low_pixelOf, ← pixelCount_eq]
    obtain ⟨mem, bus, rfl⟩ := exists_mem_bus_of_accessible hacc
    cases inc <;> rfl

end Sys2Proof.Machine

/-! # Integer arithmetic, shifts and logical operations (spec/41_core_integer.md) -/

namespace Sys2Proof.Machine

/-! ## What a rule writes (R201, R202) -/

/-- The registers and memory after one general register was written, whatever else the rule writes outside them. -/
theorem gpr_mem_of_setX {s u : State} {dest : Reg} {r : Word} (hgpr : u.gpr = (s.setX dest r).gpr) (hmem : u.mem = s.mem) :
    u.x dest = asGpr dest r ∧ GprKeptBut dest s u ∧ MemoryKept s u := by
  have hx : ∀ q, u.x q = if q = dest then asGpr dest r else s.x q := fun q => by
    rw [← x_setX_eq]; unfold State.x; rw [hgpr]
  exact ⟨by rw [hx, if_pos rfl], fun q hq => by rw [hx, if_neg hq], fun a => by rw [hmem]⟩

/-- A rule that writes its result to one register, and of the rest psr and epsr at most. -/
theorem integerEffect_of_setX {s u : State} {dest : Reg} {r : Word} (hgpr : u.gpr = (s.setX dest r).gpr)
    (hframe : u = { s with gpr := u.gpr, psr := u.psr, epsr := u.epsr }) : IntegerEffect s dest r u := by
  obtain ⟨hdest, hkept, hmem⟩ := gpr_mem_of_setX hgpr (by rw [hframe])
  exact ⟨hdest, hkept, hmem, hframe⟩

theorem ccIs_of_setBit {s u : State} {b : Bool} (h : u.psr = setBit s.psr 2 b) : CcIs b s u :=
  ⟨by rw [h, getLsbD_setBit_self _ _ _ (by decide)], fun k hk => by rw [h, getLsbD_setBit_ne _ _ _ _ (by decide) hk]⟩

theorem ofIs_of_setBit {s u : State} {b : Bool} (h : u.epsr = setBit s.epsr 24 b) : OfIs b s u :=
  ⟨by rw [h, getLsbD_setBit_self _ _ _ (by decide)], fun k hk => by rw [h, getLsbD_setBit_ne _ _ _ _ (by decide) hk]⟩

/-- SC set: its five bits, and every other bit of psr. -/
theorem sc_of_setField {s u : State} {sc : BitVec 5} (h : u.psr = setField s.psr 17 sc) :
    u.psr.extractLsb' 17 5 = sc ∧ PsrKeptBut (fun k => 17 ≤ k ∧ k ≤ 21) s u := by
  refine ⟨by rw [h, extractLsb'_setField_self _ _ _ (by decide)], fun k hk => ?_⟩
  rw [h, getLsbD_setField _ _ _ _ (by decide), if_neg (by omega)]

/-! ## addu, subu, adds, subs (R203 to R206) -/

/-- The result, CC and OF written as the four arithmetic rules write them. -/
theorem arithmetic_leaves (s : State) (dest : Reg) (r : Word) (cc ovf : Bool) :
    (Exec.done () (((s.setX dest r).setCC cc).setOF ovf)).Leaves fun u =>
      IntegerEffect s dest r u ∧ CcIs cc s u ∧ OfIs ovf s u :=
  ⟨_, rfl, integerEffect_of_setX rfl rfl, ccIs_of_setBit rfl, ofIs_of_setBit rfl⟩

theorem ofInt_add_toInt (a b : Word) : BitVec.ofInt 32 (a.toInt + b.toInt) = a + b := by
  rw [BitVec.ofInt_add, BitVec.ofInt_toInt, BitVec.ofInt_toInt]

theorem ofInt_sub_toInt (a b : Word) : BitVec.ofInt 32 (a.toInt - b.toInt) = a - b := by
  rw [Int.sub_eq_add_neg, BitVec.ofInt_add, BitVec.ofInt_neg, BitVec.ofInt_toInt, BitVec.ofInt_toInt, BitVec.sub_eq_add_neg]

/-- There is a borrow where the subtrahend is the greater (R204). -/
theorem not_noBorrow (a b : Word) : (!noBorrow a b) = decide (a.toNat < b.toNat) := by
  unfold noBorrow
  rw [← decide_not, decide_eq_decide, Nat.not_le]

theorem outsideSigned_eq (t : Int) : outsideSigned t = decide (t < -2 ^ 31 ∨ 2 ^ 31 ≤ t) := (Bool.decide_or ..).symm

theorem addUnsigned_leaves (a b : Word) (dest : Reg) (s : State) : (addUnsigned a b dest s).Leaves fun u =>
    IntegerEffect s dest (BitVec.ofNat 32 (a.toNat + b.toNat)) u ∧ CcIs (decide (2 ^ 32 ≤ a.toNat + b.toNat)) s u ∧
      OfIs (decide (2 ^ 32 ≤ a.toNat + b.toNat)) s u := by
  rw [← BitVec.add_def]
  exact arithmetic_leaves ..

theorem subUnsigned_leaves (a b : Word) (dest : Reg) (s : State) : (subUnsigned a b dest s).Leaves fun u =>
    IntegerEffect s dest (BitVec.ofInt 32 (a.toInt - b.toInt)) u ∧ CcIs (decide (b.toNat ≤ a.toNat)) s u ∧
      OfIs (decide (a.toNat < b.toNat)) s u := by
  rw [ofInt_sub_toInt, ← not_noBorrow]
  exact arithmetic_leaves ..

theorem addSigned_leaves (a b : Word) (dest : Reg) (s : State) : (addSigned a b dest s).Leaves fun u =>
    IntegerEffect s dest (BitVec.ofInt 32 (a.toInt + b.toInt)) u ∧ CcIs (decide (a.toInt + b.toInt < 0)) s u ∧
      OfIs (decide (a.toInt + b.toInt < -2 ^ 31 ∨ 2 ^ 31 ≤ a.toInt + b.toInt)) s u := by
  rw [ofInt_add_toInt, ← outsideSigned_eq]
  exact arithmetic_leaves ..

theorem subSigned_leaves (a b : Word) (dest : Reg) (s : State) : (subSigned a b dest s).Leaves fun u =>
    IntegerEffect s dest (BitVec.ofInt 32 (a.toInt - b.toInt)) u ∧ CcIs (decide (a.toInt < b.toInt)) s u ∧
      OfIs (decide (a.toInt - b.toInt < -2 ^ 31 ∨ 2 ^ 31 ≤ a.toInt - b.toInt)) s u := by
  rw [ofInt_sub_toInt, ← outsideSigned_eq]
  exact arithmetic_leaves ..

/-- Settles O10: the rules of addu and subu, whatever the first operand is. -/
theorem unsignedArithmetic : Obligations.UnsignedArithmetic := by
  intro s src2 dest
  exact ⟨fun src1 => ⟨completes_of_leaves rfl (addUnsigned_leaves ..), completes_of_leaves rfl (subUnsigned_leaves ..)⟩,
    fun imm => ⟨completes_of_leaves rfl (addUnsigned_leaves ..), completes_of_leaves rfl (subUnsigned_leaves ..)⟩⟩

/-- Settles O11: the rules of adds and subs, whatever the first operand is. -/
theorem signedArithmetic : Obligations.SignedArithmetic := by
  intro s src2 dest
  exact ⟨fun src1 => ⟨completes_of_leaves rfl (addSigned_leaves ..), completes_of_leaves rfl (subSigned_leaves ..)⟩,
    fun imm => ⟨completes_of_leaves rfl (addSigned_leaves ..), completes_of_leaves rfl (subSigned_leaves ..)⟩⟩

/-! ## Shifts by 0 to 31 (R207 to R211) -/

/-! ### The values shifted -/

theorem shiftLeft_eq_ofNat (b : Word) (n : Nat) : b <<< n = BitVec.ofNat 32 (b.toNat * 2 ^ n) := by
  apply BitVec.eq_of_toNat_eq
  rw [BitVec.toNat_shiftLeft, Nat.shiftLeft_eq, BitVec.toNat_ofNat]

theorem ushiftRight_eq_ofNat (b : Word) (n : Nat) : b >>> n = BitVec.ofNat 32 (b.toNat / 2 ^ n) := by
  rw [← Nat.shiftRight_eq_div_pow, ← BitVec.toNat_ushiftRight, BitVec.ofNat_toNat, BitVec.setWidth_eq]

/-- Rounding down is what the floor division of integers by a power of two does. -/
theorem sshiftRight_eq_ofInt (b : Word) (n : Nat) : b.sshiftRight n = BitVec.ofInt 32 (b.toInt / 2 ^ n) := by
  have hdiv : b.toInt / 2 ^ n = b.toInt >>> n := by rw [Int.shiftRight_eq_div_pow]; norm_cast
  rw [hdiv]; rfl

/-- The low word of the shifted concatenation, as a division of its unsigned value. -/
theorem shiftRightDouble_eq_ofNat (high low : Word) (n : BitVec 5) :
    shiftRightDouble high low n = BitVec.ofNat 32 ((high.toNat * 2 ^ 32 + low.toNat) / 2 ^ n.toNat) := by
  apply BitVec.eq_of_toNat_eq
  unfold shiftRightDouble
  rw [BitVec.extractLsb'_toNat, BitVec.toNat_ushiftRight, BitVec.toNat_append, ← Nat.shiftLeft_add_eq_or_of_lt low.isLt,
    Nat.shiftLeft_eq, Nat.shiftRight_zero, Nat.shiftRight_eq_div_pow, BitVec.toNat_ofNat]

/-- A 16-bit count read as a word keeps its value. -/
theorem toNat_zext16 (imm : BitVec 16) : (zext16 imm).toNat = imm.toNat :=
  BitVec.toNat_setWidth_of_le (by decide)

/-! ### The rules -/

/-- Only dest changes: what shl, shra and shrd leave. -/
def PlainEffect (s : State) (dest : Reg) (r : Word) (u : State) : Prop :=
  IntegerEffect s dest r u ∧ u.psr = s.psr ∧ u.epsr = s.epsr

theorem plainEffect_setX (s : State) (dest : Reg) (r : Word) : PlainEffect s dest r (s.setX dest r) :=
  ⟨integerEffect_of_setX rfl rfl, rfl, rfl⟩

section
variable {a : Word} {n : Nat} (b : Word) (dest : Reg) (s : State) (ha : a.toNat = n) (hn : n < 32)
include ha hn

theorem writeShift_of_lt (v : Word) : writeShift a v dest s = s.setX dest v := if_pos (ha ▸ hn)

theorem shiftLeft_leaves : (shiftLeft a b dest s).Leaves (PlainEffect s dest (BitVec.ofNat 32 (b.toNat * 2 ^ n))) := by
  refine ⟨_, congrArg (Exec.done ()) (writeShift_of_lt dest s ha hn _), ?_⟩
  rw [shiftLeft_eq_ofNat, ha]
  exact plainEffect_setX ..

theorem shiftRightArith_leaves :
    (shiftRightArith a b dest s).Leaves (PlainEffect s dest (BitVec.ofInt 32 (b.toInt / 2 ^ n))) := by
  refine ⟨_, congrArg (Exec.done ()) (writeShift_of_lt dest s ha hn _), ?_⟩
  rw [sshiftRight_eq_ofInt, ha]
  exact plainEffect_setX ..

theorem shiftRight_leaves : (shiftRight a b dest s).Leaves fun u =>
    IntegerEffect s dest (BitVec.ofNat 32 (b.toNat / 2 ^ n)) u ∧ u.psr.extractLsb' 17 5 = BitVec.ofNat 5 n ∧
      PsrKeptBut (fun k => 17 ≤ k ∧ k ≤ 21) s u ∧ u.epsr = s.epsr := by
  have hcount : a.extractLsb' 0 5 = BitVec.ofNat 5 n := by
    rw [← ha, BitVec.ofNat_toNat, BitVec.setWidth_eq_extractLsb' (by decide)]
  refine ⟨_, congrArg (Exec.done ()) (writeShift_of_lt dest _ ha hn _), ?_⟩
  rw [ushiftRight_eq_ofNat, ha, hcount]
  obtain ⟨hsc, hkept⟩ := sc_of_setField (s := s) (u := (s.setSC (BitVec.ofNat 5 n)).setX dest _) rfl
  exact ⟨integerEffect_of_setX rfl rfl, hsc, hkept, rfl⟩

end

theorem bodyShrd_leaves (src1 src2 dest : Reg) (s : State) : (bodyShrd src1 src2 dest s).Leaves (PlainEffect s dest
    (BitVec.ofNat 32 (((s.x src1).toNat * 2 ^ 32 + (s.x src2).toNat) / 2 ^ (s.psr.extractLsb' 17 5).toNat))) := by
  rw [← shiftRightDouble_eq_ofNat]
  exact ⟨_, rfl, plainEffect_setX ..⟩

/-- Settles O12: the three shifts at a register's or an immediate's count, and shrd. -/
theorem shiftsInRange : Obligations.ShiftsInRange := by
  intro s src2 dest
  refine ⟨fun src1 h => ?_, fun src1 => completes_of_leaves rfl (bodyShrd_leaves ..), fun imm h => ?_⟩
  · exact ⟨completes_of_leaves rfl (shiftLeft_leaves _ dest s rfl h), completes_of_leaves rfl (shiftRight_leaves _ dest s rfl h),
      completes_of_leaves rfl (shiftRightArith_leaves _ dest s rfl h)⟩
  · have himm := toNat_zext16 imm
    exact ⟨completes_of_leaves rfl (shiftLeft_leaves _ dest s himm h),
      completes_of_leaves rfl (shiftRight_leaves _ dest s himm h),
      completes_of_leaves rfl (shiftRightArith_leaves _ dest s himm h)⟩

/-! ## Shifts by 32 or more (R207, R209) -/

/-- Only dest, SC and the count of free values change; r0 stays zero, and any other dest may hold any value. -/
def FreeShiftEffect (s : State) (dest : Reg) (sc : BitVec 5) (u : State) : Prop :=
  (dest = 0#5 → u.x dest = 0#32) ∧ GprKeptBut dest s u ∧ MemoryKept s u ∧
    u.psr.extractLsb' 17 5 = sc ∧ PsrKeptBut (fun k => 17 ≤ k ∧ k ≤ 21) s u ∧
    u = { s with gpr := u.gpr, psr := u.psr, freeCount := u.freeCount }

/-- A register written, whatever the value, beside a write of SC. -/
theorem freeShiftEffect_of_setX {s u : State} {dest : Reg} {r : Word} {sc : BitVec 5} (hgpr : u.gpr = (s.setX dest r).gpr)
    (hsc : u.psr.extractLsb' 17 5 = sc ∧ PsrKeptBut (fun k => 17 ≤ k ∧ k ≤ 21) s u)
    (hframe : u = { s with gpr := u.gpr, psr := u.psr, freeCount := u.freeCount }) : FreeShiftEffect s dest sc u := by
  obtain ⟨hdest, hkept, hmem⟩ := gpr_mem_of_setX hgpr (by rw [hframe])
  exact ⟨fun h0 => by rw [hdest, asGpr, if_pos h0], hkept, hmem, hsc.1, hsc.2, hframe⟩

section
variable {a : Word} (b : Word) (dest : Reg) (s : State) (ha : 32 ≤ a.toNat)
include ha

theorem writeShift_of_ge (v : Word) : writeShift a v dest s = s.nextFree.setX dest (s.free.extractLsb' 0 32) :=
  if_neg (Nat.not_lt.mpr ha)

/-- A shift that leaves SC alone. -/
theorem writeShift_leaves (v : Word) :
    (Exec.done () (writeShift a v dest s)).Leaves (FreeShiftEffect s dest (s.psr.extractLsb' 17 5)) :=
  ⟨_, congrArg (Exec.done ()) (writeShift_of_ge dest s ha v), freeShiftEffect_of_setX rfl ⟨rfl, fun _ _ => rfl⟩ rfl⟩

theorem shiftRight_leaves_of_ge :
    (shiftRight a b dest s).Leaves (FreeShiftEffect s dest (a.extractLsb' 0 5)) :=
  ⟨_, congrArg (Exec.done ()) (writeShift_of_ge dest _ ha _), freeShiftEffect_of_setX rfl (sc_of_setField rfl) rfl⟩

end

/-- Settles O13: the free value goes to dest for a register's or an immediate's count, and shr records its low five bits. -/
theorem shiftsOutOfRange : Obligations.ShiftsOutOfRange := by
  intro s src2 dest effect
  refine ⟨fun src1 h => ?_, fun imm h => ?_⟩
  · exact ⟨completes_of_leaves rfl (writeShift_leaves dest s h _), completes_of_leaves rfl (shiftRight_leaves_of_ge _ dest s h),
      completes_of_leaves rfl (writeShift_leaves dest s h _)⟩
  · rw [← toNat_zext16] at h
    have hlow : (zext16 imm).extractLsb' 0 5 = imm.extractLsb' 0 5 := BitVec.extractLsb'_setWidth_of_le (by decide)
    rw [← hlow]
    exact ⟨completes_of_leaves rfl (writeShift_leaves dest s h _), completes_of_leaves rfl (shiftRight_leaves_of_ge _ dest s h),
      completes_of_leaves rfl (writeShift_leaves dest s h _)⟩

/-! ## The logical instructions (R212 to R220) -/

/-- What a logical instruction leaves: a result made bit by bit from the operands, and CC, which says that it is zero. -/
def LogicalEffect (s : State) (dest : Reg) (op : Bool → Bool → Bool) (a b : Word) (u : State) : Prop :=
  ∃ r : Word, (∀ k, k < 32 → r.getLsbD k = op (a.getLsbD k) (b.getLsbD k)) ∧
    IntegerEffect s dest r u ∧ CcIs (decide (r = 0#32)) s u ∧ u.epsr = s.epsr

theorem logical_leaves {op : Bool → Bool → Bool} {a b r : Word} (dest : Reg) (s : State)
    (h : ∀ k, k < 32 → r.getLsbD k = op (a.getLsbD k) (b.getLsbD k)) :
    (logical r dest s).Leaves (LogicalEffect s dest op a b) :=
  ⟨_, rfl, r, h, integerEffect_of_setX rfl rfl, ccIs_of_setBit rfl, rfl⟩

section
variable (a b : Word) (dest : Reg) (s : State)

theorem logical_and_leaves : (logical (a &&& b) dest s).Leaves (LogicalEffect s dest (fun x y => x && y) a b) :=
  logical_leaves dest s fun _ _ => BitVec.getLsbD_and

theorem logical_andnot_leaves : (logical (~~~a &&& b) dest s).Leaves (LogicalEffect s dest (fun x y => !x && y) a b) :=
  logical_leaves dest s fun k hk => by rw [BitVec.getLsbD_and, BitVec.getLsbD_not, decide_eq_true hk, Bool.true_and]

theorem logical_or_leaves : (logical (a ||| b) dest s).Leaves (LogicalEffect s dest (fun x y => x || y) a b) :=
  logical_leaves dest s fun _ _ => BitVec.getLsbD_or

theorem logical_xor_leaves : (logical (a ^^^ b) dest s).Leaves (LogicalEffect s dest (fun x y => x != y) a b) :=
  logical_leaves dest s fun _ _ => BitVec.getLsbD_xor

end

/-- An immediate in the high half is the immediate shifted there (R114). -/
theorem high16_eq_shiftLeft (imm : BitVec 16) : high16 imm = imm.setWidth 32 <<< 16 := by
  have hfits : imm.toNat * 2 ^ 16 < 2 ^ 32 := by have := imm.isLt; omega
  apply BitVec.eq_of_toNat_eq
  unfold high16
  rw [BitVec.toNat_append, BitVec.toNat_shiftLeft, BitVec.toNat_setWidth_of_le (by decide), Nat.shiftLeft_eq,
    Nat.mod_eq_of_lt hfits]
  exact Nat.or_zero _

/-- Settles O14: the four operations at a register, an immediate, and an immediate in the high half. -/
theorem logicalResults : Obligations.LogicalResults := by
  intro s src2 dest effect
  refine ⟨fun src1 => ?_, fun imm => ?_⟩
  · exact ⟨completes_of_leaves rfl (logical_and_leaves ..), completes_of_leaves rfl (logical_andnot_leaves ..),
      completes_of_leaves rfl (logical_or_leaves ..), completes_of_leaves rfl (logical_xor_leaves ..)⟩
  · rw [← high16_eq_shiftLeft]
    exact ⟨completes_of_leaves rfl (logical_and_leaves ..), completes_of_leaves rfl (logical_andnot_leaves ..),
      completes_of_leaves rfl (logical_or_leaves ..), completes_of_leaves rfl (logical_xor_leaves ..),
      completes_of_leaves rfl (logical_and_leaves ..), completes_of_leaves rfl (logical_andnot_leaves ..),
      completes_of_leaves rfl (logical_or_leaves ..), completes_of_leaves rfl (logical_xor_leaves ..)⟩

end Sys2Proof.Machine

/-! # Control transfer (spec/42_core_control.md) -/

namespace Sys2Proof.Machine

/-! ## Targets and conditions (R115, R116, R249, R251) -/

/-- An offset in words shifted to bytes. -/
theorem shiftLeft_two (v : Word) : v <<< 2 = v * 4#32 := BitVec.shiftLeft_eq_mul_twoPow v 2

theorem longTarget_eq (b : Word) (off : BitVec 26) : longTarget b off = b + 4#32 + off.signExtend 32 * 4#32 :=
  congrArg _ (shiftLeft_two _)

theorem shortTarget_eq (b : Word) (off : BitVec 16) : shortTarget b off = b + 4#32 + off.signExtend 32 * 4#32 :=
  congrArg _ (shiftLeft_two _)

/-- The constant of bte and btne, zero-extended, against a register (R115). -/
theorem setWidth_eq_iff_toNat (c : BitVec 5) (v : Word) : c.setWidth 32 = v ↔ c.toNat = v.toNat := by
  rw [← BitVec.toNat_inj, BitVec.toNat_setWidth_of_le (by decide)]

/-! ## Branches without a delay slot (R240, R247, R251) -/

/-- A branch without a delay slot completes and moves the pc alone, to the target if taken. -/
theorem completes_of_branchIf {i : Instr} {s : State} {taken : Bool} {target : Word}
    (he : exec i s = finishAt s.pc (branchIf taken target s)) :
    Completes i s (if taken then some target else none) fun u => u = s :=
  completes_of he rfl

/-- Settles O30: the condition of each branch, and the two targets as sums. -/
theorem plainBranches : Obligations.PlainBranches := by
  intro s
  dsimp only
  refine ⟨fun off => ?_, fun src2 off => ⟨fun src1 => ?_, fun c => ?_⟩⟩
  · rw [← longTarget_eq]
    exact ⟨completes_of_branchIf rfl, completes_of_branchIf rfl⟩
  · rw [← shortTarget_eq, decide_not, ← beq_eq_decide]
    exact ⟨completes_of_branchIf rfl, completes_of_branchIf rfl⟩
  · rw [← shortTarget_eq, decide_not, ← decide_eq_decide.mpr (setWidth_eq_iff_toNat c (s.x src2)), ← beq_eq_decide]
    exact ⟨completes_of_branchIf rfl, completes_of_branchIf rfl⟩

/-! ## The delay slot of a branch that is executed (R241, R242) -/

/-- After a slot instruction that completes, control goes to the target. -/
theorem delaySlot_of_completes {link : Bool} {next : Word} {s t : State} (h : SlotCompletes link s t) :
    delaySlot link next s = .done (some next) { t with pc := s.pc } := by
  obtain ⟨hrun, hsync⟩ := h
  unfold delaySlot afterSlot
  rw [hrun]
  exact if_neg (by rw [hsync]; decide)

/-- A trap of the slot instruction is the branch's, marked as the slot's, the target in the latch. -/
theorem delaySlot_of_raise {link : Bool} {next : Word} {s t : State} {c : TrapClass} {reason : TrapReason} {detail : TrapDetail}
    (h : slotRun link { s with pc := s.pc + 4#32 } = raise c reason detail t) :
    delaySlot link next s =
      .trapped (State.recordTrap { t with pc := s.pc, pendDslot := true, dslotTarget := next } c reason detail) := by
  unfold delaySlot
  rw [h]; rfl

/-- A delayed branch, executed from the state with its own earlier effects, completes with its slot instruction. -/
theorem completes_of_delaySlot {i : Instr} {link : Bool} {s before t : State} {target : Word}
    (he : exec i s = finishAt s.pc (delaySlot link target before)) (hpc : before.pc = s.pc) (h : SlotCompletes link before t) :
    Completes i s (some target) fun u => u = { t with pc := s.pc } :=
  completes_of (by rw [he, delaySlot_of_completes h, finishAt_done, hpc]) rfl

theorem Exec.TrapsWith.refl {α : Type} (x : Exec α) : x.TrapsWith x := fun _ h => h

/-- A delayed branch, executed from the state with its own earlier effects, takes the trap of its slot instruction. -/
theorem trapTaken_of_delaySlot {i : Instr} {link : Bool} {s before t : State} {target : Word} {rule : Exec (Option Word)}
    {c : TrapClass} {reason : TrapReason} {detail : TrapDetail} (he : exec i s = finishAt s.pc rule)
    (hrule : rule.TrapsWith (delaySlot link target before)) (hpc : before.pc = s.pc)
    (h : slotRun link { before with pc := s.pc + 4#32 } = raise c reason detail t) :
    ∃ u, exec i s = .next u ∧
      TrapTaken { t with dslotTarget := target } (s.pc + 4#32) { cls := c, reason := reason, detail := detail } u := by
  rw [← hpc] at h
  refine ⟨_, by rw [he, hrule _ (delaySlot_of_raise h), finishAt_trapped], ?_⟩
  exact trapTaken_endStep { t with pc := before.pc, pendDslot := true, dslotTarget := target } s.pc none c reason detail

/-! ### The conditional branches (R248) -/

theorem delayedIf_of_taken {taken : Bool} {target : Word} {s : State} (h : taken = true) :
    delayedIf taken target s = delaySlot false target s := if_pos h

theorem delayedIf_of_not_taken {taken : Bool} {target : Word} {s : State} (h : taken = false) :
    delayedIf taken target s = .done (some (s.pc + 8#32)) s := if_neg (by rw [h]; decide)

theorem exec_bct_of_cc {s : State} (off : BitVec 26) (h : s.cc = true) :
    exec (.bct off) s = finishAt s.pc (delaySlot false (longTarget s.pc off) s) :=
  congrArg (finishAt s.pc) (delayedIf_of_taken h)

theorem exec_bnct_of_not_cc {s : State} (off : BitVec 26) (h : s.cc = false) :
    exec (.bnct off) s = finishAt s.pc (delaySlot false (longTarget s.pc off) s) :=
  congrArg (finishAt s.pc) (delayedIf_of_taken (by rw [h]; rfl))

theorem exec_bct_of_not_cc {s : State} (off : BitVec 26) (h : s.cc = false) :
    exec (.bct off) s = .next (s.endStep s.pc (some (s.pc + 8#32))) :=
  congrArg (finishAt s.pc) (delayedIf_of_not_taken h)

theorem exec_bnct_of_cc {s : State} (off : BitVec 26) (h : s.cc = true) :
    exec (.bnct off) s = .next (s.endStep s.pc (some (s.pc + 8#32))) :=
  congrArg (finishAt s.pc) (delayedIf_of_not_taken (by rw [h]; rfl))

/-! ### Branches whose slot instruction completes (R241, R243, R245, R246, R248, R249, R252) -/

/-- Settles O31: each branch executes its slot from the state with its link written, if it writes one. -/
theorem delayedBranches : Obligations.DelayedBranches := by
  intro s t
  dsimp only
  refine ⟨fun off => ?_, fun src1 hslot => completes_of_delaySlot rfl rfl hslot⟩
  rw [← longTarget_eq]
  exact ⟨fun hslot => ⟨completes_of_delaySlot rfl rfl hslot, fun hcc => completes_of_delaySlot (exec_bct_of_cc off hcc) rfl hslot,
      fun hcc => completes_of_delaySlot (exec_bnct_of_not_cc off hcc) rfl hslot⟩,
    fun hslot => completes_of_delaySlot rfl rfl hslot,
    fun hcc => completes_of (exec_bct_of_not_cc off hcc) rfl,
    fun hcc => completes_of (exec_bnct_of_cc off hcc) rfl⟩

/-- Settles O32: the slot is executed from the state with the register and LCC written. -/
theorem branchOnLcc : Obligations.BranchOnLcc := by
  intro s t src1 src2 off hslot
  rw [← shortTarget_eq]
  exact completes_of_delaySlot rfl rfl hslot

/-! ### bri and the trap return (R250, R455) -/

/-- The bits of psr after the trap return. -/
theorem getLsbD_psrAtTrapReturn (psr : Word) (k : Nat) : (psrAtTrapReturn psr).getLsbD k =
    if k = 6 then psr.getLsbD 7 else if k = 4 then psr.getLsbD 5 else if 8 ≤ k ∧ k ≤ 12 then false else psr.getLsbD k := by
  unfold psrAtTrapReturn
  rw [getLsbD_setField _ _ _ _ (by decide), getLsbD_setBit _ _ _ _ (by decide), getLsbD_setBit _ _ _ _ (by decide)]
  by_cases hbits : 8 ≤ k ∧ k ≤ 12
  · rw [if_pos (by omega), if_neg (by omega), if_neg (by omega), if_pos hbits, BitVec.getLsbD_zero]
  · rw [if_neg (by omega), if_neg hbits]
    by_cases h6 : k = 6 <;> simp [h6]

/-- The trap return writes psr alone, and only with a trap bit set. -/
theorem trapReturn_spec (t : State) :
    t.trapReturn = { t with psr := t.trapReturn.psr } ∧ (t.trapBits = 0#5 → t.trapReturn.psr = t.psr) ∧
      (t.trapBits ≠ 0#5 → t.trapReturn.psr = psrAtTrapReturn t.psr) := by
  unfold State.trapReturn
  split
  · next h => exact ⟨rfl, fun _ => rfl, fun hne => absurd h hne⟩
  · next h => exact ⟨rfl, fun h0 => absurd h0 h, fun _ => rfl⟩

/-- Settles O33: the trap return follows the slot instruction. -/
theorem indirectBranchAndTrapReturn : Obligations.IndirectBranchAndTrapReturn := by
  intro s t src1 hslot
  have hrule : bodyBri src1 s = .done (some (s.x src1)) (State.trapReturn { t with pc := s.pc }) := by
    unfold bodyBri
    rw [delaySlot_of_completes hslot, Exec.bind_done]
  obtain ⟨hframe, hnone, hsome⟩ := trapReturn_spec { t with pc := s.pc }
  refine completes_of (congrArg (finishAt s.pc) hrule) ⟨hframe, hnone, fun hbits k => ?_⟩
  rw [hsome hbits]
  exact getLsbD_psrAtTrapReturn t.psr k

/-! ## The rule of a slot instruction (R241, R244) -/

/-- A control transfer has no rule in a slot; no other refusal comes before that one (R241). -/
theorem slotBody_of_transfersControl {i : Instr} (s : State) (h : TransfersControl i) :
    slotBody i s = .refused .controlTransferInSlot ∧ usesLink i = false := by
  obtain ⟨off, rfl | rfl | rfl | rfl | rfl | rfl⟩ | ⟨src1, rfl | rfl⟩ | ⟨src1, src2, off, rfl | rfl | rfl | rfl | rfl⟩ |
    ⟨src1, src2, dest, rfl⟩ | rfl | rfl | rfl := h <;> exact ⟨rfl, rfl⟩

section
variable {link : Bool} {s t : State} {w : Word} (hf : fetch s.pc s = .done w t)
include hf

theorem slotRun_of_fetch_done : slotRun link s = slotDecoded link w t := by
  unfold slotRun
  rw [hf, Exec.bind_done]

theorem slotRun_of_instr {i : Instr} (hw : decodeWord w = .instr i) :
    slotRun link s =
      if link && usesLink i && !((opFlags w).fp && t.knf) then .refused .linkRegisterInCallSlot else slotBody i t := by
  rw [slotRun_of_fetch_done hf]
  unfold slotDecoded
  rw [hw]

theorem slotRun_of_undefined (hw : decodeWord w = .undefined) : slotRun link s = raise .it .undefinedOpcode (.word w) t := by
  rw [slotRun_of_fetch_done hf]
  unfold slotDecoded
  rw [hw]

theorem slotRun_of_reserved {form : ReservedForm} {d : Bool} (hw : decodeWord w = .reserved form d) :
    slotRun link s =
      if (opFlags w).fp then fpEscape d (fun _ => .refused (.reservedForm form)) t else .refused (.reservedForm form) := by
  rw [slotRun_of_fetch_done hf, ← isFp_of_decodeWord hw]
  unfold slotDecoded
  rw [hw]

/-- A reserved form in a slot is suppressed by KNF if it is an FP-escape word, and refused otherwise (R129, R133). -/
theorem slotRun_reserved_outcome {form : ReservedForm} {d : Bool} (hw : decodeWord w = .reserved form d) :
    if (opFlags w).fp && t.knf then ∃ u, slotRun link s = .done () u ∧ SuppressedFrom t u else ∃ q, slotRun link s = .refused q := by
  rw [slotRun_of_reserved hf hw]
  cases (opFlags w).fp with
  | false => exact ⟨_, rfl⟩
  | true =>
    rw [if_pos rfl, Bool.true_and]
    cases hk : t.knf with
    | true => exact ⟨_, fpEscape_of_knf_set hk, suppressedFrom_clearKNF t⟩
    | false => exact isRefused_fpEscape hk (body := fun _ => .refused (.reservedForm form)) ⟨_, rfl⟩

end

/-- A slot whose fetch traps raises that trap (R94). -/
theorem slotRun_of_translate_trapped {link : Bool} {s u : State} (hpc : s.pc.toNat % 4 = 0)
    (ht : translate s.pc .execute s = .trapped u) : slotRun link s = .trapped u := by
  unfold slotRun
  rw [fetch_of_translate_trapped ((aligned_iff 2 s.pc).mpr hpc) ht, Exec.bind_trapped]

/-- A slot at a misaligned address is stuck (R95). -/
theorem slotRun_of_misaligned {link : Bool} {s : State} (hpc : s.pc.toNat % 4 ≠ 0) : slotRun link s = .faulted .stuckFetch := by
  have ha : aligned 2 s.pc = false := Bool.eq_false_iff.mpr fun h => hpc ((aligned_iff 2 s.pc).mp h)
  unfold slotRun
  rw [fetch_of_misaligned s ha, Exec.bind_faulted]

/-! ### Instructions that read or write r1 (R244) -/

/-- Instructions that use r1 under one condition: `usesLink` has the same value `b` at each. -/
theorem usesLink_iff_of_map {l : List Instr} {b : Bool} {p : Prop} (hl : l.map usesLink = List.replicate l.length b)
    (hb : b = true ↔ p) : ∀ i ∈ l, usesLink i = true ↔ p := fun i hi => by
  rw [List.map_eq_replicate_iff.mp hl i hi, hb]

/-- Of the FP-escape instructions only fxfr names a general register (R356). -/
theorem usesLink_of_fp {i : Instr} (hfp : (opFlags (encode i)).fp = true) (h : ∀ o, i ≠ .fxfr o) : usesLink i = false := by
  cases i with
  | fxfr o => exact absurd rfl (h o)
  | pfam | pfsm | pfmam | pfmsm | fmul | pfmul | fmlow | frcp | frsqr | pfmul3 | fadd | pfadd | fsub | pfsub | fix | pfix
  | famov | pfamov | ftrunc | pftrunc | pfgt | pfle | pfeq | fiadd | pfiadd | fisub | pfisub | faddp | pfaddp | faddz
  | pfaddz | fzchkl | pfzchkl | form | pform | fzchks | pfzchks => rfl
  | _ =>
    simp only [opFlags, encode, primaryOf_regWord, primaryOf_immWord, primaryOf_splitWord, primaryOf_lbrWord,
      primaryOf_coreEscapeWord] at hfp
    exact absurd hfp (by decide)

/-- Settles O34: the slot's fetch in its outcomes, the rule of each instruction, and those that name r1. -/
theorem slotRunsSameRule : Obligations.SlotRunsSameRule := by
  refine ⟨exec_eq_slotBody, fun i s => slotBody_of_transfersControl s, fun link s t w hf => ?_, fun link s u => ?_,
    fun a b c inc => ?_, fun o => beq_iff_eq, fun i => usesLink_of_fp⟩
  · exact ⟨fun i => slotRun_of_instr hf, slotRun_of_undefined hf, fun form d => slotRun_reserved_outcome hf⟩
  · exact ⟨slotRun_of_translate_trapped, slotRun_of_misaligned⟩
  · have htwo : ∀ r q : Reg, (r == 1#5 || q == 1#5) = true ↔ r = 1#5 ∨ q = 1#5 := fun r q => by
      rw [Bool.or_eq_true, beq_iff_eq, beq_iff_eq]
    have hthree : (a == 1#5 || b == 1#5 || c == 1#5) = true ↔ a = 1#5 ∨ b = 1#5 ∨ c = 1#5 := by
      rw [Bool.or_eq_true, htwo, beq_iff_eq, or_assoc]
    have hcontrol : (decide (a.toNat < 6) && c == 1#5) = true ↔ a.toNat < 6 ∧ c = 1#5 := by
      rw [Bool.and_eq_true, decide_eq_true_iff, beq_iff_eq]
    exact ⟨usesLink_iff_of_map rfl hthree, fun _ _ => usesLink_iff_of_map rfl (htwo b c),
      fun _ _ => usesLink_iff_of_map rfl (htwo a b), fun _ _ => usesLink_iff_of_map rfl beq_iff_eq, fun _ => htwo b c,
      beq_iff_eq, hcontrol, hcontrol⟩

/-! ## A trap in a slot (R242, R432, R450, R452) -/

/-- Settles O35: the slot of each branch is executed from the state with its earlier effects. -/
theorem slotTrap : Obligations.SlotTrap := by
  intro s t c reason detail
  dsimp only
  refine ⟨fun off => ?_, fun src1 src2 off => ?_⟩
  · rw [← longTarget_eq]
    exact ⟨trapTaken_of_delaySlot rfl (.refl _) rfl, trapTaken_of_delaySlot rfl (.refl _) rfl,
      fun hcc => trapTaken_of_delaySlot (exec_bct_of_cc off hcc) (.refl _) rfl,
      fun hcc => trapTaken_of_delaySlot (exec_bnct_of_not_cc off hcc) (.refl _) rfl⟩
  · rw [← shortTarget_eq]
    exact ⟨trapTaken_of_delaySlot rfl (Exec.trapsWith_bind _ _) rfl, trapTaken_of_delaySlot rfl (.refl _) rfl,
      trapTaken_of_delaySlot rfl (.refl _) rfl⟩

end Sys2Proof.Machine

/-! # Control registers and system instructions (spec/43_core_system.md) -/

namespace Sys2Proof.Machine

/-! ## The registers csrc2 names (R280, R282, R283) -/

/-- csrc2 of 6 or more names no register to read. -/
theorem readControl_of_six_le {csrc2 : Reg} (s : State) (h : 6 ≤ csrc2.toNat) : s.readControl csrc2 = none := by
  unfold State.readControl
  split
  case h_7 => rfl
  all_goals exact absurd h (by decide)

/-- csrc2 of 6 or more names no register to write. -/
theorem writeControl_of_six_le {csrc2 : Reg} (s : State) (v : Word) (h : 6 ≤ csrc2.toNat) : s.writeControl csrc2 v = none := by
  unfold State.writeControl
  split
  case h_7 => rfl
  all_goals exact absurd h (by decide)

theorem bodyLdc_of_six_le {csrc2 : Reg} (dest : Reg) (s : State) (h : 6 ≤ csrc2.toNat) :
    bodyLdc csrc2 dest s = raise .it .undefinedOpcode (.word s.fetched) s := by
  unfold bodyLdc
  rw [readControl_of_six_le s h]

theorem bodyStc_of_six_le {csrc2 : Reg} (src1 : Reg) (s : State) (h : 6 ≤ csrc2.toNat) :
    bodyStc src1 csrc2 s = raise .it .undefinedOpcode (.word s.fetched) s := by
  unfold bodyStc
  rw [writeControl_of_six_le s _ h]

/-- An instruction whose rule raises a trap takes it, outside a delay slot at its own address (R432, R450). -/
theorem traps_of_raise {i : Instr} {s u : State} {rule : Exec Unit} {c : TrapClass} {reason : TrapReason} {detail : TrapDetail}
    (he : exec i s = finish s.pc rule) (hd : u.pendDslot = false) (hr : rule = raise c reason detail u) :
    Traps i s u s.pc { cls := c, reason := reason, detail := detail } :=
  traps_of_recordTrap hd (by rw [he, hr]; rfl)

/-- A slot instruction that does not use r1 runs its rule after whatever branch (R241, R244). -/
theorem slotRun_of_not_usesLink {link : Bool} {s t : State} {w : Word} {i : Instr} (hf : fetch s.pc s = .done w t)
    (hw : decodeWord w = .instr i) (hlink : usesLink i = false) : slotRun link s = slotBody i t := by
  rw [slotRun_of_instr hf hw, hlink, Bool.and_false]
  rfl

/-- Settles O28: neither rule finds a register, and neither uses r1 then. -/
theorem noSuchControlRegister : Obligations.NoSuchControlRegister := by
  intro s csrc2 r hsix hd
  refine ⟨traps_of_raise rfl hd (bodyLdc_of_six_le r s hsix), traps_of_raise rfl hd (bodyStc_of_six_le r s hsix),
    fun t w hf hw => ?_⟩
  have hunused : (decide (csrc2.toNat < 6) && r == 1#5) = false := by
    rw [decide_eq_false (Nat.not_lt.mpr hsix), Bool.false_and]
  rw [← fetched_of_fetch hf]
  rcases hw with hw | hw
  · exact (slotRun_of_not_usesLink hf hw hunused).trans (bodyLdc_of_six_le r t hsix)
  · exact (slotRun_of_not_usesLink hf hw hunused).trans (bodyStc_of_six_le r t hsix)

/-! ## ld.c (R29, R280, R281) -/

/-- ld.c of fir reads it once as trap entry left it, and then as its own address. -/
theorem bodyLdc_fir (dest : Reg) (s : State) : bodyLdc 0#5 dest s = .done () (s.afterReadFir.setX dest s.firValue) := rfl

/-- ld.c of any other register writes what it reads to dest. -/
theorem bodyLdc_of_readControl {csrc2 : Reg} {s : State} {v : Word} (dest : Reg) (hne : csrc2 ≠ 0#5)
    (h : s.readControl csrc2 = some v) : bodyLdc csrc2 dest s = .done () (s.setX dest v) := by
  unfold bodyLdc State.afterReadControl
  rw [h, if_neg hne]

/-- ld.c of a register other than fir completes, and writes dest and nothing else. -/
theorem completes_ldc {csrc2 : Reg} {s : State} {v : Word} (dest : Reg) (hne : csrc2 ≠ 0#5)
    (h : s.readControl csrc2 = some v) : Completes (.ldc csrc2 dest) s none fun u =>
      u.x dest = asGpr dest v ∧ GprKeptBut dest s u ∧ MemoryKept s u ∧ u = { s with gpr := u.gpr } := by
  obtain ⟨hdest, hkept, hmem⟩ := gpr_mem_of_setX (s := s) (u := s.setX dest v) rfl rfl
  exact completes_of_leaves rfl ⟨_, bodyLdc_of_readControl dest hne h, hdest, hkept, hmem, rfl⟩

/-- Settles O24: fir with its effect on the trap-address source, the others by their reads. -/
theorem loadControl : Obligations.LoadControl := by
  intro s dest
  refine ⟨?_, completes_ldc dest (by decide) rfl, completes_ldc dest (by decide) rfl, completes_ldc dest (by decide) rfl,
    completes_ldc dest (by decide) rfl, completes_ldc dest (by decide) rfl⟩
  obtain ⟨hdest, hkept, hmem⟩ := gpr_mem_of_setX (s := s) (u := s.afterReadFir.setX dest s.firValue) rfl rfl
  exact completes_of_leaves rfl ⟨_, bodyLdc_fir dest s, hdest, hkept, hmem, rfl⟩

/-! ## st.c (R30 to R36, R282, R285) -/

/-! ### The bits of the masks -/

theorem psrUserMask_iff : ∀ k, k < 32 → (psrUserMask.getLsbD k = true ↔ k = 2 ∨ k = 3 ∨ 17 ≤ k) := by decide

theorem psrSupervisorMask_iff : ∀ k, k < 32 → (psrSupervisorMask.getLsbD k = true ↔ k ≠ 16 ∧ ¬(8 ≤ k ∧ k ≤ 12)) := by decide

theorem dirbaseMask_iff : ∀ k, k < 32 → (dirbaseMask.getLsbD k = true ↔ k ≠ 5 ∧ k ≠ 6) := by decide

theorem fsrMask_iff : ∀ k, k < 32 → (fsrMask.getLsbD k = true ↔ k ≠ 6 ∧ k < 25) := by decide

theorem epsrMask_iff : ∀ k, k < 32 → (epsrMask.getLsbD k = true ↔ k = 13 ∨ k = 14 ∨ k = 23 ∨ k = 24) := by decide

/-- The bits of psr st.c writes: user mode's in both modes, and the supervisor's. -/
theorem psrWriteMask_iff (s : State) {k : Nat} (hk : k < 32) :
    s.psrWriteMask.getLsbD k = true ↔
      k = 2 ∨ k = 3 ∨ 17 ≤ k ∨ (s.user = false ∧ k ≠ 16 ∧ ¬(8 ≤ k ∧ k ≤ 12)) := by
  unfold State.psrWriteMask
  cases s.user with
  | true =>
    rw [if_pos rfl, psrUserMask_iff k hk]
    simp
  | false =>
    rw [if_neg Bool.false_ne_true, psrSupervisorMask_iff k hk]
    simp only [true_and]
    omega

/-- A bit of a masked write, where the mask's bits are those of a condition. -/
theorem getLsbD_maskedWrite_of_iff {mask old new : Word} {k : Nat} {p : Prop} [Decidable p] (hk : k < 32)
    (hp : mask.getLsbD k = true ↔ p) :
    (maskedWrite mask old new).getLsbD k = if p then new.getLsbD k else old.getLsbD k :=
  (getLsbD_maskedWrite mask old new k hk).trans (if_congr hp rfl rfl)

/-- The same of a register only the supervisor writes. -/
theorem getLsbD_supervisorWrite_of_iff {user : Bool} {mask old new : Word} {k : Nat} {p : Prop} [Decidable p] (hk : k < 32)
    (hp : mask.getLsbD k = true ↔ p) :
    (if user then old else maskedWrite mask old new).getLsbD k =
      if user = false ∧ p then new.getLsbD k else old.getLsbD k := by
  cases user with
  | true => simp
  | false => simpa using getLsbD_maskedWrite_of_iff hk hp

/-! ### The rule -/

theorem writeControl_dirbase (s : State) (v : Word) : s.writeControl 2#5 v =
    some { s with dirbase := if s.user then s.dirbase else maskedWrite dirbaseMask s.dirbase v } := by
  unfold State.writeControl
  cases s.user <;> rfl

theorem writeControl_db (s : State) (v : Word) :
    s.writeControl 3#5 v = some { s with db := if s.user then s.db else v } := by
  unfold State.writeControl
  cases s.user <;> rfl

theorem writeControl_epsr (s : State) (v : Word) : s.writeControl 5#5 v =
    some { s with epsr := if s.user then s.epsr else maskedWrite epsrMask s.epsr v } := by
  unfold State.writeControl
  cases s.user <;> rfl

/-- st.c to a register that csrc2 names completes with the write. -/
theorem completes_stc {csrc2 src1 : Reg} {s u : State} {effect : State → Prop}
    (h : s.writeControl csrc2 (s.x src1) = some u) (hu : effect u) : Completes (.stc src1 csrc2) s none effect :=
  completes_of_leaves rfl ⟨u, by unfold bodyStc; rw [h], hu⟩

/-- Settles O26: the state each register's write leaves, and its bits by the mask of the register and the mode. -/
theorem storeControl : Obligations.StoreControl := by
  intro s src1
  have hmem : MemoryKept s s := fun _ => rfl
  have hgpr : GprKept s s := fun _ => rfl
  exact ⟨completes_stc rfl ⟨rfl, hmem, hgpr⟩,
    completes_stc rfl ⟨fun _ hk => getLsbD_maskedWrite_of_iff hk (psrWriteMask_iff s hk), ⟨hmem, hgpr⟩, rfl⟩,
    completes_stc (writeControl_dirbase ..)
      ⟨fun k hk => getLsbD_supervisorWrite_of_iff hk (dirbaseMask_iff k hk), ⟨hmem, hgpr⟩, rfl⟩,
    completes_stc (writeControl_db ..) ⟨rfl, ⟨hmem, hgpr⟩, rfl⟩,
    completes_stc rfl ⟨fun k hk => getLsbD_maskedWrite_of_iff hk (fsrMask_iff k hk), ⟨hmem, hgpr⟩, rfl⟩,
    completes_stc (writeControl_epsr ..)
      ⟨fun k hk => getLsbD_supervisorWrite_of_iff hk (epsrMask_iff k hk), ⟨hmem, hgpr⟩, rfl⟩⟩

/-! ### dirbase.ITI (R284) -/

/-- Bits outside the mask of a write may be set or cleared in the new word. -/
theorem maskedWrite_or_eq_and_not {mask bits : Word} (h : bits &&& mask = 0#32) (old v : Word) :
    maskedWrite mask old (v ||| bits) = maskedWrite mask old (v &&& ~~~bits) := by
  apply word_ext
  intro j hj
  have hbit : (bits.getLsbD j && mask.getLsbD j) = false := by rw [← BitVec.getLsbD_and, h, BitVec.getLsbD_zero]
  rw [getLsbD_maskedWrite _ _ _ _ hj, getLsbD_maskedWrite _ _ _ _ hj]
  cases hm : mask.getLsbD j with
  | false => rfl
  | true =>
    have hclear : bits.getLsbD j = false := by rw [hm, Bool.and_true] at hbit; exact hbit
    simp only [BitVec.getLsbD_or, BitVec.getLsbD_and, BitVec.getLsbD_not, hclear, hj, decide_true, Bool.not_false,
      Bool.or_false, Bool.and_true]

/-- Settles O27: ITI is outside the mask that both the write and the read of dirbase go through. -/
theorem invalidateBit : Obligations.InvalidateBit := by
  intro s v
  refine ⟨?_, ?_⟩
  · rw [writeControl_dirbase, writeControl_dirbase, maskedWrite_or_eq_and_not (by decide)]
  · unfold State.readDirbase
    rw [BitVec.getLsbD_and, show dirbaseMask.getLsbD 5 = false by decide, Bool.and_false]

/-! ## trap, intovr, lock and unlock (R286 to R289) -/

theorem bodyIntovr_of_ovf {s : State} (h : s.ovf = true) : bodyIntovr s = raise .it .integerOverflow .nothing s := if_pos h

theorem bodyIntovr_of_not_ovf {s : State} (h : s.ovf = false) : bodyIntovr s = .done () s := if_neg (by rw [h]; decide)

/-- BL set or cleared, and nothing else (R286, R287). -/
theorem setBL_leaves (b : Bool) (s : State) : (Exec.done () (s.setBL b)).Leaves fun u =>
    u.dirbase.getLsbD 4 = b ∧ DirbaseKeptBut (fun k => k = 4) s u ∧ MemoryKept s u ∧ u = { s with dirbase := u.dirbase } :=
  ⟨_, rfl, getLsbD_setBit_self _ _ _ (by decide), fun _ hk => getLsbD_setBit_ne _ _ _ _ (by decide) hk, fun _ => rfl, rfl⟩

/-- Settles O29: the traps raised, and the bit written. -/
theorem systemInstructions : Obligations.SystemInstructions := by
  intro s
  exact ⟨fun hd src1 src2 dest => traps_of_raise rfl hd rfl, fun hovf hd => traps_of_raise rfl hd (bodyIntovr_of_ovf hovf),
    fun hovf => completes_of_leaves rfl ⟨s, bodyIntovr_of_not_ovf hovf, rfl⟩, completes_of_leaves rfl (setBL_leaves true s),
    completes_of_leaves rfl (setBL_leaves false s)⟩

end Sys2Proof.Machine

/-! # Pipelined floating point, compares, dual operations and graphics (spec/44_fp_pipelines.md) -/

namespace Sys2Proof.Machine

/-! ## What a read of fsr and epsr answers (R33, R34, R318, R440) -/

/-- Every bit of fsr as it is read: the four precision bits are the pipelines', the others the stored ones. -/
theorem getLsbD_readFsr (s : State) (k : Nat) : s.readFsr.getLsbD k =
    if k = 30 then s.arp else if k = 29 then s.mrp else if k = 28 then s.irp else if k = 27 then s.lrp
    else s.fsr.getLsbD k && fsrMask.getLsbD k := by
  unfold State.readFsr
  rw [getLsbD_setBit _ _ _ _ (by decide), getLsbD_setBit _ _ _ _ (by decide), getLsbD_setBit _ _ _ _ (by decide),
    getLsbD_setBit _ _ _ _ (by decide), BitVec.getLsbD_and]

/-- From bit 27 on a read of fsr answers nothing that is stored in it. -/
theorem getLsbD_readFsr_of_ge (s : State) {k : Nat} (hk : 27 ≤ k) : s.readFsr.getLsbD k =
    if k = 30 then s.arp else if k = 29 then s.mrp else if k = 28 then s.irp else if k = 27 then s.lrp else false := by
  have hmask : fsrMask.getLsbD k = false := by
    by_cases h : k < 32
    · exact Bool.eq_false_iff.mpr fun e => absurd ((fsrMask_iff k h).mp e).2 (by omega)
    · exact BitVec.getLsbD_of_ge _ _ (Nat.le_of_not_lt h)
  rw [getLsbD_readFsr, hmask, Bool.and_false]

/-- The stored fields of fsr are read as they are. -/
theorem getLsbD_readFsr_stored (s : State) {k : Nat} (hk : k < 25) (h6 : k ≠ 6) :
    s.readFsr.getLsbD k = s.fsr.getLsbD k := by
  rw [getLsbD_readFsr, if_neg (by omega), if_neg (by omega), if_neg (by omega), if_neg (by omega),
    (fsrMask_iff k (by omega)).mpr ⟨h6, hk⟩, Bool.and_true]

/-- The reserved bits of fsr read 0. -/
theorem getLsbD_readFsr_reserved (s : State) {k : Nat} (hk : k = 6 ∨ k = 25 ∨ k = 26 ∨ 31 ≤ k) :
    s.readFsr.getLsbD k = false := by
  by_cases h27 : 27 ≤ k
  · rw [getLsbD_readFsr_of_ge s h27, if_neg (by omega), if_neg (by omega), if_neg (by omega), if_neg (by omega)]
  · have hmask : fsrMask.getLsbD k = false :=
      Bool.eq_false_iff.mpr fun e => by have := (fsrMask_iff k (by omega)).mp e; omega
    rw [getLsbD_readFsr, if_neg (by omega), if_neg (by omega), if_neg (by omega), if_neg (by omega), hmask, Bool.and_false]

/-- Every bit of epsr outside the fields that are views: the stored one, where epsr stores one. -/
theorem getLsbD_readEpsr (s : State) {k : Nat} (h : 13 ≤ k ∧ k < 17 ∨ 22 ≤ k) :
    s.readEpsr.getLsbD k = (s.epsr.getLsbD k && epsrMask.getLsbD k) := by
  unfold State.readEpsr
  rw [getLsbD_setField _ _ _ _ (by decide), if_neg (by omega), getLsbD_setBit _ _ _ _ (by decide), if_neg (by omega),
    getLsbD_setField _ _ _ _ (by decide), if_neg (by omega), getLsbD_setField _ _ _ _ (by decide), if_neg (by omega),
    BitVec.getLsbD_and]

theorem getLsbD_readEpsr_stored (s : State) {k : Nat} (hk : k = 13 ∨ k = 14 ∨ k = 23 ∨ k = 24) :
    s.readEpsr.getLsbD k = s.epsr.getLsbD k := by
  rw [getLsbD_readEpsr s (by omega), (epsrMask_iff k (by omega)).mpr hk, Bool.and_true]

theorem getLsbD_readEpsr_reserved (s : State) {k : Nat} (hk : k = 15 ∨ k = 16 ∨ k = 22 ∨ 25 ≤ k) :
    s.readEpsr.getLsbD k = false := by
  have hmask : epsrMask.getLsbD k = false := by
    by_cases h : k < 32
    · exact Bool.eq_false_iff.mpr fun e => by have := (epsrMask_iff k h).mp e; omega
    · exact BitVec.getLsbD_of_ge _ _ (Nat.le_of_not_lt h)
  rw [getLsbD_readEpsr s (by omega), hmask, Bool.and_false]

theorem readEpsr_type (s : State) : s.readEpsr.extractLsb' 0 8 = s.params.epsrProcType := by
  unfold State.readEpsr
  rw [extractLsb'_setField_ne _ _ _ _ _ (by decide) (by decide), extractLsb'_setBit _ _ _ _ _ (by decide) (by decide),
    extractLsb'_setField_ne _ _ _ _ _ (by decide) (by decide), extractLsb'_setField_self _ _ _ (by decide)]

theorem readEpsr_stepping (s : State) : s.readEpsr.extractLsb' 8 5 = s.params.epsrStepping := by
  unfold State.readEpsr
  rw [extractLsb'_setField_ne _ _ _ _ _ (by decide) (by decide), extractLsb'_setBit _ _ _ _ _ (by decide) (by decide),
    extractLsb'_setField_self _ _ _ (by decide)]

theorem readEpsr_dcs (s : State) : s.readEpsr.extractLsb' 18 4 = s.params.epsrDcs :=
  extractLsb'_setField_self _ _ _ (by decide)

theorem readEpsr_int (s : State) : s.readEpsr.getLsbD 17 = s.intPin := by
  unfold State.readEpsr
  rw [getLsbD_setField _ _ _ _ (by decide), if_neg (by decide), getLsbD_setBit_self _ _ _ (by decide)]

/-- Settles O25: each bit of the two reads by the view or the stored field it stands in. -/
theorem statusViews : Obligations.StatusViews := by
  intro s
  refine ⟨fun k hk h6 => getLsbD_readFsr_stored s hk h6, fun k hk => getLsbD_readFsr_reserved s hk,
    getLsbD_readFsr_of_ge s (by decide), getLsbD_readFsr_of_ge s (by decide), getLsbD_readFsr_of_ge s (by decide),
    getLsbD_readFsr_of_ge s (by decide), readEpsr_type s, readEpsr_stepping s, readEpsr_dcs s, readEpsr_int s,
    fun k hk => getLsbD_readEpsr_stored s hk, fun k hk => getLsbD_readEpsr_reserved s hk, fun v u hu k hk => ?_⟩
  obtain rfl : _ = u := Option.some.inj hu
  rw [getLsbD_readFsr_of_ge _ hk, getLsbD_readFsr_of_ge _ hk]
  rfl

/-! ## FPCheck (R341) -/

/-- Of the state only fsr and the count of free values are changed: all that FPCheck and a unit of a dual operation write. -/
def ChecksOnly (s t : State) : Prop := t = { s with fsr := t.fsr, freeCount := t.freeCount }

theorem ChecksOnly.trans {s t u : State} (h : ChecksOnly s t) (h' : ChecksOnly t u) : ChecksOnly s u := by
  unfold ChecksOnly at h h' ⊢
  rw [h', h]

/-- The status speaks of fsr alone. -/
theorem fpStatus_congr {unit : FpUnit} {s t u : State} {p : Prec} {se : Bool} {x : FVal} (h : FpStatus unit s p se x t)
    (hu : u.fsr = t.fsr) : FpStatus unit s p se x u := by
  unfold FpStatus UnitStatus FsrKeptBut at h ⊢
  rw [hu]
  exact h

theorem afterNan_eq (s : State) (x : FVal) : s.afterNan x = { s with freeCount := (s.afterNan x).freeCount } := by
  unfold State.afterNan
  cases x.isNan <;> rfl

section
variable {unit : FpUnit} {x : FVal} {p : Prec} {se : Bool} {s : State}

/-- FPCheck that takes no trap answers the rounded result and records the status. -/
theorem fpCheck_of_passes (h : FpPasses s p se x) :
    ∃ t, fpCheck unit x p se s = .done (fpBits s p se x) t ∧ FpStatus unit s p se x t ∧ ChecksOnly s t := by
  cases se with
  | true =>
    have hfte : s.fte = false := h.resolve_right fun h' => absurd h'.1 (by decide)
    have hkept := afterNan_eq { s.setSE true with fsr := setUnitBits unit false false false (s.setSE true).fsr } x
    refine ⟨_, by rw [fpCheck_source, if_neg (by rw [hfte]; decide)]; rfl, unitStatus_of ?_, ?_⟩
    · rw [hkept]; rfl
    · unfold ChecksOnly; rw [hkept]; rfl
  | false =>
    have hnone : (s.fte && resultTraps s.ti (s.checked p x)) = false := by
      rcases h with h | ⟨_, h⟩ <;> rw [h]
      · rfl
      · exact Bool.and_false _
    exact ⟨(s.setSE false).recordResult unit (s.checked p x),
      (fpCheck_result unit x p s).trans (if_neg (Bool.not_eq_true _ ▸ hnone)), unitStatus_of rfl, rfl⟩

/-- With traps enabled an exceptional source is trapped, only SE being recorded. -/
theorem fpCheck_of_exceptional (hf : s.fte = true) :
    fpCheck unit x p true s = raise .ft .fpSource .nothing (s.setSE true) := by
  rw [fpCheck_source, if_pos hf]

/-- With traps enabled a trapping result condition is trapped, the status being recorded. -/
theorem fpCheck_of_resultTraps (hf : s.fte = true) (h : resultTraps s.ti (s.checked p x) = true) :
    fpCheck unit x p false s = raise .ft .fpResult .nothing ((s.setSE false).recordResult unit (s.checked p x)) := by
  rw [fpCheck_result]
  exact if_pos (by rw [hf]; exact h)

/-- An operation that takes no trap goes on with its result. -/
theorem fpCheck_bind_leaves {k : Dword → State → Exec Unit} {effect : State → Prop} (h : FpPasses s p se x)
    (hk : ∀ t, FpStatus unit s p se x t → ChecksOnly s t → (k (fpBits s p se x) t).Leaves effect) :
    ((fpCheck unit x p se s).bind k).Leaves effect := by
  obtain ⟨t, ht, hstatus, hkept⟩ := fpCheck_of_passes (unit := unit) h
  rw [ht]
  exact hk t hstatus hkept

end

/-! ## Issue into a pipeline (R312 to R316) -/

section
variable {s t : State} {r : Prec} {dest : Reg}

theorem issueAdder_of_fits (e : Option Entry) (hfits : retireFits s.adder.s3 dest = true) (hf : t.fpr = s.fpr)
    (ha : t.adder = s.adder) : ∃ u, issueAdder r dest e t = .done () u ∧ Retired s s.adder.s3 r dest u ∧
      u = { t with adder := s.adder.push3 e, fpr := u.fpr, freeCount := u.freeCount } := by
  unfold issueAdder
  rw [ha]
  exact retire_of_fits (t := { t with adder := s.adder.push3 e }) hfits hf

theorem issueMultiplier_of_fits (d : Depth) (e : Option Entry) (hfits : retireFits (s.multiplier.last d) dest = true)
    (hf : t.fpr = s.fpr) (hm : t.multiplier = s.multiplier) :
    ∃ u, issueMultiplier d r dest e t = .done () u ∧ Retired s (s.multiplier.last d) r dest u ∧
      u = { t with multiplier := s.multiplier.push d e, fpr := u.fpr, freeCount := u.freeCount } := by
  unfold issueMultiplier
  rw [hm]
  exact retire_of_fits (t := { t with multiplier := s.multiplier.push d e }) hfits hf

theorem issueGraphics_of_fits (e : Option Entry) (hfits : retireFits s.graphics dest = true) (hf : t.fpr = s.fpr)
    (hg : t.graphics = s.graphics) : ∃ u, issueGraphics r dest e t = .done () u ∧ Retired s s.graphics r dest u ∧
      u = { t with graphics := e, fpr := u.fpr, freeCount := u.freeCount } := by
  unfold issueGraphics
  rw [hg]
  exact retire_of_fits (t := { t with graphics := e }) hfits hf

end

/-- What a checked result issued through the adder leaves: the leaving entry in fdest, the status, the adder moved by one. -/
def AdderIssued (s : State) (r : Prec) (dest : Reg) (se : Bool) (x : FVal) (u : State) : Prop :=
  Retired s s.adder.s3 r dest u ∧ FpStatus .adder s r se x u ∧
    AdderFrame s (s.adder.push3 (some (entryOf r (fpBits s r se x)))) u

/-- The same through the multiplier at a depth. -/
def MultiplierIssued (d : Depth) (s : State) (r : Prec) (dest : Reg) (se : Bool) (x : FVal) (u : State) : Prop :=
  Retired s (s.multiplier.last d) r dest u ∧ FpStatus .multiplier s r se x u ∧
    MultiplierFrame s (s.multiplier.push d (some (entryOf r (fpBits s r se x)))) u

section
variable {s : State} {r : Prec} {dest : Reg} {se : Bool} {x : FVal} (hpass : FpPasses s r se x)
include hpass

theorem fpCheck_pushAdder_leaves (hfits : retireFits s.adder.s3 dest = true) :
    ((fpCheck .adder x r se s).bind (pushAdder r dest)).Leaves (AdderIssued s r dest se x) := by
  refine fpCheck_bind_leaves hpass fun t hstatus ht => ?_
  obtain ⟨u, hu, hretired, hkept⟩ :=
    issueAdder_of_fits (t := t) (some (entryOf r (fpBits s r se x))) hfits (by rw [ht]) (by rw [ht])
  refine ⟨u, hu, hretired, fpStatus_congr hstatus (by rw [hkept]), fun a => ?_, ?_⟩
  · rw [hkept, ht]
  · rw [hkept, ht]

theorem fpCheck_pushMultiplier_leaves (d : Depth) (hfits : retireFits (s.multiplier.last d) dest = true) :
    ((fpCheck .multiplier x r se s).bind (pushMultiplier d r dest)).Leaves (MultiplierIssued d s r dest se x) := by
  refine fpCheck_bind_leaves hpass fun t hstatus ht => ?_
  obtain ⟨u, hu, hretired, hkept⟩ :=
    issueMultiplier_of_fits (t := t) d (some (entryOf r (fpBits s r se x))) hfits (by rw [ht]) (by rw [ht])
  refine ⟨u, hu, hretired, fpStatus_congr hstatus (by rw [hkept]), fun a => ?_, ?_⟩
  · rw [hkept, ht]
  · rw [hkept, ht]

end

/-! ## Pipelined arithmetic (R342 to R346) -/

section
variable {s : State} {o : Fp3} (h : SourcesReady s o) (hp : pairArith o.s o.r = true)
include h hp

/-- A pipelined operation of an accepted form is FPCheck of its exact result, and the issue. -/
theorem pipedArith_eq (unit : FpUnit) (op : ExactOp) (push : Prec → Reg → Dword → State → Exec Unit) :
    pipedArith unit op push o s =
      (fpCheck unit (op s.rm (value1 s o) (value2 s o)) o.r (exceptional s o) s).bind (push o.r o.dest) := by
  obtain ⟨hexec, h1, h2⟩ := h
  unfold pipedArith
  rw [fpEscape_of_executes hexec, requirePair_of hp, requireAligned_of (by rw [h1, h2]; rfl)]
  rfl

/-- The same of a scalar operation. -/
theorem scalarArith_eq (unit : FpUnit) (op : ExactOp) (hdest : alignedFor o.r o.dest = true) :
    scalarArith unit op o s =
      (fpCheck unit (op s.rm (value1 s o) (value2 s o)) o.r (exceptional s o) s).bind (writeScalar o.r o.dest) := by
  obtain ⟨hexec, h1, h2⟩ := h
  unfold scalarArith
  rw [fpEscape_of_executes hexec, requirePair_of hp, requireAligned_of (by rw [h1, h2, hdest]; rfl)]
  rfl

end

/-- The operands of pfmul3.dd as those of an instruction of two double sources (R346). -/
def doubleOperands (o : FpDd) : Fp3 := { src1 := o.src1, src2 := o.src2, dest := o.dest, s := .double, r := .double, d := o.d }

/-- pfmul3.dd is a pipelined operation of the multiplier at three stages (R346). -/
theorem bodyPfmul3_eq (o : FpDd) (s : State) :
    bodyPfmul3 o s = pipedArith .multiplier mulOp (pushMultiplier .three) (doubleOperands o) s := rfl

section
variable {s : State} {o : Fp3} (h : SourcesReady s o) (hp : pairArith o.s o.r = true) {op : ExactOp}
  (hpass : FpPasses s o.r (exceptional s o) (op s.rm (value1 s o) (value2 s o)))
include h hp hpass

theorem pipedArith_adder_leaves (hfits : retireFits s.adder.s3 o.dest = true) :
    (pipedArith .adder op pushAdder o s).Leaves
      (AdderIssued s o.r o.dest (exceptional s o) (op s.rm (value1 s o) (value2 s o))) := by
  rw [pipedArith_eq h hp]
  exact fpCheck_pushAdder_leaves hpass hfits

theorem pipedArith_multiplier_leaves {d d' : Depth} (hd : d' = d) (hfits : retireFits (s.multiplier.last d) o.dest = true) :
    (pipedArith .multiplier op (pushMultiplier d') o s).Leaves
      (MultiplierIssued d s o.r o.dest (exceptional s o) (op s.rm (value1 s o) (value2 s o))) := by
  rw [pipedArith_eq h hp, hd]
  exact fpCheck_pushMultiplier_leaves hpass d hfits

end

/-- Settles O40: the adder's two instructions, the multiplier at the depth of its sources' precision, and pfmul3.dd. -/
theorem pipelinedArithmetic : Obligations.PipelinedArithmetic := by
  intro s
  refine ⟨fun o h hp => ⟨fun hpass hfits => ?_, fun hpass hfits => ?_, fun hs hpass hfits => ?_, fun hs hpass hfits => ?_⟩,
    fun o h hpass hfits => ?_⟩
  · exact completes_of_leaves rfl (pipedArith_adder_leaves (op := exactAdd) h hp hpass hfits)
  · exact completes_of_leaves rfl (pipedArith_adder_leaves (op := exactSub) h hp hpass hfits)
  · exact completes_of_leaves rfl (pipedArith_multiplier_leaves (op := mulOp) h hp hpass (congrArg depthOf hs) hfits)
  · exact completes_of_leaves rfl (pipedArith_multiplier_leaves (op := mulOp) h hp hpass (congrArg depthOf hs) hfits)
  · exact completes_of_leaves (congrArg (finish s.pc) (bodyPfmul3_eq o s))
      (pipedArith_multiplier_leaves (d := .three) h rfl hpass rfl hfits)

/-! ## Compares (R321, R353 to R355) -/

/-- No value is less than a NaN, nor a NaN less than a value. -/
theorem fLess_eq_ordered_and (a b : FVal) : fLess a b = (!(a.isNan || b.isNan) && fLess a b) := by
  cases a <;> cases b <;> rfl

/-- Nothing is equal to a NaN. -/
theorem fEqual_eq_ordered_and (a b : FVal) : fEqual a b = (!(a.isNan || b.isNan) && fEqual a b) := by
  cases a <;> cases b <;> rfl

theorem greater_eq (a b : FVal) : greater a b = (!(a.isNan || b.isNan) && fLess b a) := by
  rw [Bool.or_comm]
  exact fLess_eq_ordered_and b a

theorem lessEqual_eq (a b : FVal) : lessEqual a b = (!(a.isNan || b.isNan) && (fLess a b || fEqual a b)) := by
  unfold lessEqual
  rw [Bool.and_or_distrib_left, ← fLess_eq_ordered_and, ← fEqual_eq_ordered_and]

/-- An operand of a compare is a NaN. -/
def unordered (s : State) (p : Prec) (src1 src2 : Reg) : Bool :=
  (fval p (s.fr p src1)).isNan || (fval p (s.fr p src2)).isNan

section
variable {s : State} {p : Prec} {src1 src2 dest : Reg} (test : FVal → FVal → Bool)

/-- A compare that takes no trap issues an empty entry through the adder, CC and SE being written. -/
theorem compare_leaves (hquiet : (unordered s p src1 src2 && s.fte) = false) (hfits : retireFits s.adder.s3 dest = true) :
    (compare test src1 src2 dest p s).Leaves fun u =>
      Retired s s.adder.s3 p dest u ∧ SeIs (unordered s p src1 src2) s u ∧
        CcIs (test (fval p (s.fr p src1)) (fval p (s.fr p src2))) s u ∧ MemoryKept s u ∧
        u = { s with
          fpr := u.fpr, psr := u.psr, fsr := u.fsr, freeCount := u.freeCount
          adder := { s1 := none, s2 := s.adder.s1, s3 := s.adder.s2 } } := by
  obtain ⟨u, hu, hretired, hkept⟩ := issueAdder_of_fits (r := p) none hfits
    (t := (s.setSE (unordered s p src1 src2)).setCC (test (fval p (s.fr p src1)) (fval p (s.fr p src2)))) rfl rfl
  refine ⟨u, (if_neg (Bool.not_eq_true _ ▸ hquiet)).trans hu, hretired, seIs_of ?_, ccIs_of_setBit ?_, fun a => ?_, ?_⟩ <;>
    rw [hkept] <;> rfl

/-- With traps enabled a compare of a NaN traps. -/
theorem compare_of_unordered (h : (unordered s p src1 src2 && s.fte) = true) :
    compare test src1 src2 dest p s = raise .ft .fpSource .nothing (s.setSE true) := by
  have hnan : unordered s p src1 src2 = true := (Bool.and_eq_true_iff.mp h).1
  refine (if_pos h).trans ?_
  exact congrArg (fun b => raise .ft .fpSource .nothing (s.setSE b)) hnan

/-- The instruction is a compare that takes `cc` into CC, and completes or traps as compares do. -/
def Comparing (s : State) (p : Prec) (src1 src2 dest : Reg) (i : Instr) (cc : Bool) : Prop :=
  ((unordered s p src1 src2 && s.fte) = false → retireFits s.adder.s3 dest = true → Completes i s none fun u =>
    Retired s s.adder.s3 p dest u ∧ SeIs (unordered s p src1 src2) s u ∧ CcIs cc s u ∧ MemoryKept s u ∧
      u = { s with
        fpr := u.fpr, psr := u.psr, fsr := u.fsr, freeCount := u.freeCount
        adder := { s1 := none, s2 := s.adder.s1, s3 := s.adder.s2 } }) ∧
  ((unordered s p src1 src2 && s.fte) = true → s.pendDslot = false → ∃ u, SeIs true s u ∧ u = { s with fsr := u.fsr } ∧
    Traps i s u s.pc { cls := .ft, reason := .fpSource, detail := .nothing })

theorem comparing_of_compare {i : Instr} {cc : Bool} (he : exec i s = finish s.pc (compare test src1 src2 dest p s))
    (hcc : test (fval p (s.fr p src1)) (fval p (s.fr p src2)) = cc) : Comparing s p src1 src2 dest i cc := by
  subst hcc
  exact ⟨fun hquiet hfits => completes_of_leaves he (compare_leaves test hquiet hfits),
    fun hnan hd => ⟨s.setSE true, seIs_of rfl, rfl, traps_of_raise he hd (compare_of_unordered test hnan)⟩⟩

end

section
variable {s : State} {o : FpCmp} (hexec : Executes s o.d) (h1 : alignedFor o.s o.src1 = true) (h2 : alignedFor o.s o.src2 = true)
include hexec h1 h2

theorem bodyPfgt_eq : bodyPfgt o s = compare greater o.src1 o.src2 o.dest o.s s := by
  unfold bodyPfgt
  rw [fpEscape_of_executes hexec, requireAligned_of (by rw [h1, h2]; rfl)]

theorem bodyPfle_eq : bodyPfle o s = compare (pfleTest s.params.pfleSense) o.src1 o.src2 o.dest o.s s := by
  unfold bodyPfle
  rw [fpEscape_of_executes hexec, requireAligned_of (by rw [h1, h2]; rfl)]

end

theorem bodyPfeq_eq {s : State} {o : Fp3} (h : SourcesReady s o) (hp : pairSame o.s o.r = true) :
    bodyPfeq o s = compare fEqual o.src1 o.src2 o.dest o.s s := by
  obtain ⟨hexec, h1, h2⟩ := h
  unfold bodyPfeq
  rw [fpEscape_of_executes hexec, requirePair_of hp, requireAligned_of (by rw [h1, h2]; rfl)]

/-- Settles O47: the three tests, each false of unordered operands, under the rule all compares share. -/
theorem compares : Obligations.Compares := by
  intro s p src1 src2 dest d hexec h1 h2 a b _ _ r
  refine ⟨comparing_of_compare greater (congrArg (finish s.pc) (bodyPfgt_eq hexec h1 h2)) (greater_eq a b),
    comparing_of_compare (pfleTest s.params.pfleSense) (congrArg (finish s.pc) (bodyPfle_eq hexec h1 h2)) ?_, ?_⟩
  · cases s.params.pfleSense with
    | negated => exact congrArg (! ·) (lessEqual_eq a b)
    | plain => exact lessEqual_eq a b
  · rintro rfl
    exact comparing_of_compare fEqual (congrArg (finish s.pc) (bodyPfeq_eq ⟨hexec, h1, h2⟩ (beq_self_eq_true _)))
      (fEqual_eq_ordered_and a b)

/-! ## Floating-point traps (R314, R341, R350 to R352, R434) -/

/-- The instruction takes the traps of FPCheck: first that of an exceptional source, then that of a result condition; fsr holds
what was recorded and nothing else is changed. -/
def TakesFpTraps (s : State) (i : Instr) (unit : FpUnit) (p : Prec) (se : Bool) (x : FVal) : Prop :=
  (se = true → ∃ u, SeIs true s u ∧ u = { s with fsr := u.fsr } ∧
    Traps i s u s.pc { cls := .ft, reason := .fpSource, detail := .nothing }) ∧
  (se = false → resultTraps s.ti (s.checked p x) = true → ∃ u, FpStatus unit s p false x u ∧ u = { s with fsr := u.fsr } ∧
    Traps i s u s.pc { cls := .ft, reason := .fpResult, detail := .nothing })

section
variable {s : State} (hf : s.fte = true) (hd : s.pendDslot = false)
include hf hd

/-- An instruction whose rule begins with FPCheck takes its traps, whatever the rule does with the result. -/
theorem takesFpTraps_of_fpCheck {i : Instr} {unit : FpUnit} {p : Prec} {se : Bool} {x : FVal} {k : Dword → State → Exec Unit}
    {rule : Exec Unit} (hr : rule = (fpCheck unit x p se s).bind k) (he : exec i s = finish s.pc rule) :
    TakesFpTraps s i unit p se x := by
  refine ⟨fun hse => ⟨s.setSE true, seIs_of rfl, rfl, traps_of_raise he hd ?_⟩, fun hse ht =>
    ⟨(s.setSE false).recordResult unit (s.checked p x), unitStatus_of rfl, rfl, traps_of_raise he hd ?_⟩⟩
  · rw [hr, hse, fpCheck_of_exceptional hf]; rfl
  · rw [hr, hse, fpCheck_of_resultTraps hf ht]; rfl

end

/-! ### Moves (R352) -/

section
variable {s : State} {o : Fp2} (hexec : Executes s o.d) (hsrc : alignedFor o.s o.src = true)
include hexec hsrc

theorem bodyFamov_eq (hdest : alignedFor o.r o.dest = true) : bodyFamov o s =
    (fpCheck .adder (fval o.s (s.fr o.s o.src)) o.r (sourceException o.s (s.fr o.s o.src)) s).bind (writeScalar o.r o.dest) := by
  unfold bodyFamov
  rw [fpEscape_of_executes hexec, requireAligned_of (by rw [hsrc, hdest]; rfl)]
  rfl

theorem bodyPfamov_eq : bodyPfamov o s =
    (fpCheck .adder (fval o.s (s.fr o.s o.src)) o.r (sourceException o.s (s.fr o.s o.src)) s).bind (pushAdder o.r o.dest) := by
  unfold bodyPfamov
  rw [fpEscape_of_executes hexec, requireAligned_of hsrc]
  rfl

/-! ### Conversions (R350, R351) -/

theorem scalarConvert_eq (rm : State → RMode) (hp : pairFix o.s o.r = true) (hdest : alignedFor .double o.dest = true) :
    scalarConvert rm o s = convertTo (rm s) o (writePair o.dest) s := by
  unfold scalarConvert
  rw [fpEscape_of_executes hexec, requirePair_of hp, requireAligned_of (by rw [hsrc, hdest]; rfl)]

theorem pipedConvert_eq (rm : State → RMode) (hp : pairFix o.s o.r = true) :
    pipedConvert rm o s = convertTo (rm s) o (pushPair o.dest) s := by
  unfold pipedConvert
  rw [fpEscape_of_executes hexec, requirePair_of hp, requireAligned_of hsrc]

end

/-- A finite value whose rounding is a signed 32-bit integer has that integer (R350). -/
theorem convert_of_inRange (rm : RMode) (freeBit neg : Bool) (m : Nat) (e : Int) (hlow : -2 ^ 31 ≤ (roundToInt rm neg m e).1)
    (hhigh : (roundToInt rm neg m e).1 < 2 ^ 31) : convert rm freeBit (.fin neg m e) =
      { int := some (roundToInt rm neg m e).1, inexact := (roundToInt rm neg m e).2 } := by
  have hin : outsideSigned (roundToInt rm neg m e).1 = false := by
    rw [outsideSigned_eq]
    exact decide_eq_false (by omega)
  simp only [convert, hin, Bool.false_eq_true, if_false]

theorem getLsbD_stickInexact (i : Bool) (fsr : Word) (k : Nat) :
    (stickInexact i fsr).getLsbD k = if k = 7 ∧ i = true then true else fsr.getLsbD k := by
  unfold stickInexact
  cases i with
  | false => simp
  | true => simpa using getLsbD_setBit fsr 7 k true (by decide)

/-- The bits of fsr after a conversion: SE, AI and the sticky bit. -/
theorem getLsbD_conversionFsr (c : Conversion) (fsr : Word) (k : Nat) : (conversionFsr c fsr).getLsbD k =
    if k = 7 ∧ c.inexact = true then true else if k = 15 then c.inexact else if k = 8 then c.int.isNone else fsr.getLsbD k := by
  unfold conversionFsr
  rw [getLsbD_stickInexact, getLsbD_setBit _ _ _ _ (by decide), getLsbD_setBit _ _ _ _ (by decide)]

/-- With traps enabled, and those of inexact results too, an inexact conversion traps whatever it would do with the integer. -/
theorem convertTo_of_inexact {rm : RMode} {o : Fp2} {s : State} {n : Int} (k : Word → Word → State → Exec Unit)
    (hc : convert rm (s.nextFree.free.getLsbD 0) (fval o.s (s.fr o.s o.src)) = { int := some n, inexact := true })
    (hf : s.fte = true) (hti : s.ti = true) : convertTo rm o k s = raise .ft .fpResult .nothing
      { s.nextFree.nextFree with fsr := conversionFsr { int := some n, inexact := true } s.fsr } := by
  unfold convertTo
  rw [hc, hf, hti]
  rfl

/-! ### Dual operations (R385) -/

section
variable {s : State} {dpc : BitVec 4} {o : Fp3} (hexec : Executes s o.d) (hp : pairArith o.s o.r = true)
  (h1 : alignedFor o.r o.src1 = true) (h2 : alignedFor o.r o.src2 = true) (hdest : alignedFor o.r o.dest = true)
  (hfits : (dualOperands dpc o s).fits o.s o.r = true)
include hexec hp h1 h2 hdest hfits

/-- A dual operation of an accepted form whose operands have the precisions needed is its two results, and the commit. -/
theorem dualOp_eq (op : ExactOp) (out : DualOut) : dualOp op out dpc o s =
    dualResults op o (dualOperands dpc o s) (dualCommit dpc out o (dualOperands dpc o s).knew) s := by
  unfold dualOp
  rw [fpEscape_of_executes hexec, requirePair_of hp, requireAligned_of (by rw [h1, h2, hdest]; rfl)]
  exact if_pos hfits

end

section
variable {op : ExactOp} {o : Fp3} {ops : DualOperands} {k : Dword → Dword → State → Exec Unit} {s u : State} {reason : TrapReason}

theorem dualResults_of_multiplier_traps
    (h : unitResult .multiplier mulOp o.s o.r ops.m1 ops.m2 s = raise .ft reason .nothing u) :
    dualResults op o ops k s = raise .ft reason .nothing u := by
  unfold dualResults
  rw [h]
  rfl

theorem dualResults_of_adder_traps {mres : Dword} {s1 : State}
    (hm : unitResult .multiplier mulOp o.s o.r ops.m1 ops.m2 s = .done mres s1)
    (h : unitResult .adder op o.r o.r ops.a1 ops.a2 s1 = raise .ft reason .nothing u) :
    dualResults op o ops k s = raise .ft reason .nothing u := by
  unfold dualResults
  rw [hm, Exec.bind_done, h]
  rfl

end

/-- The four dual operations share one rule; they differ in the adder's operation and in the entry that fdest receives (R381 to
R384). -/
theorem exists_exec_eq_dualOp {op : ExactOp} {i : Instr} {dpc : BitVec 4} {o : Fp3} (s : State)
    (h : op = exactAdd ∧ (i = .pfam dpc o ∨ i = .pfmam dpc o) ∨ op = exactSub ∧ (i = .pfsm dpc o ∨ i = .pfmsm dpc o)) :
    ∃ out, exec i s = finish s.pc (dualOp op out dpc o s) := by
  obtain ⟨rfl, rfl | rfl⟩ | ⟨rfl, rfl | rfl⟩ := h
  · exact ⟨.adder, rfl⟩
  · exact ⟨.multiplier, rfl⟩
  · exact ⟨.adder, rfl⟩
  · exact ⟨.multiplier, rfl⟩

/-! ### Precise traps -/

section
variable {s : State} (hf : s.fte = true) (hd : s.pendDslot = false)
include hf hd

/-- The traps of the arithmetic instructions of two sources. -/
theorem arithmetic_takesFpTraps {o : Fp3} (h : SourcesReady s o) (hp : pairArith o.s o.r = true) :
    (alignedFor o.r o.dest = true →
      TakesFpTraps s (.fadd o) .adder o.r (exceptional s o) (exactAdd s.rm (value1 s o) (value2 s o)) ∧
      TakesFpTraps s (.fsub o) .adder o.r (exceptional s o) (exactSub s.rm (value1 s o) (value2 s o)) ∧
      TakesFpTraps s (.fmul o) .multiplier o.r (exceptional s o) (exactMul (value1 s o) (value2 s o))) ∧
    TakesFpTraps s (.pfadd o) .adder o.r (exceptional s o) (exactAdd s.rm (value1 s o) (value2 s o)) ∧
    TakesFpTraps s (.pfsub o) .adder o.r (exceptional s o) (exactSub s.rm (value1 s o) (value2 s o)) ∧
    TakesFpTraps s (.pfmul o) .multiplier o.r (exceptional s o) (exactMul (value1 s o) (value2 s o)) :=
  ⟨fun hdest => ⟨takesFpTraps_of_fpCheck hf hd (scalarArith_eq h hp .adder exactAdd hdest) rfl,
      takesFpTraps_of_fpCheck hf hd (scalarArith_eq h hp .adder exactSub hdest) rfl,
      takesFpTraps_of_fpCheck hf hd (scalarArith_eq h hp .multiplier mulOp hdest) rfl⟩,
    takesFpTraps_of_fpCheck hf hd (pipedArith_eq h hp .adder exactAdd pushAdder) rfl,
    takesFpTraps_of_fpCheck hf hd (pipedArith_eq h hp .adder exactSub pushAdder) rfl,
    takesFpTraps_of_fpCheck hf hd (pipedArith_eq h hp .multiplier mulOp (pushMultiplier (depthOf o.s))) rfl⟩

/-- The trap of an inexact conversion, in the scalar and in the pipelined form. -/
theorem conversion_traps_of_inexact {o : Fp2} {neg : Bool} {m : Nat} {e : Int} (hexec : Executes s o.d)
    (hp : pairFix o.s o.r = true) (hsrc : alignedFor o.s o.src = true) (hval : fval o.s (s.fr o.s o.src) = .fin neg m e)
    (hti : s.ti = true) (rm : State → RMode) (hlow : -2 ^ 31 ≤ (roundToInt (rm s) neg m e).1)
    (hhigh : (roundToInt (rm s) neg m e).1 < 2 ^ 31) (hinexact : (roundToInt (rm s) neg m e).2 = true) {scalar piped : Instr}
    (hscalar : exec scalar s = finish s.pc (scalarConvert rm o s)) (hpiped : exec piped s = finish s.pc (pipedConvert rm o s)) :
    ∃ u : State, (∀ k, u.fsr.getLsbD k = if k = 7 ∨ k = 15 then true else if k = 8 then false else s.fsr.getLsbD k) ∧
      u = { s with fsr := u.fsr, freeCount := u.freeCount } ∧
      (alignedFor .double o.dest = true → Traps scalar s u s.pc { cls := .ft, reason := .fpResult, detail := .nothing }) ∧
      Traps piped s u s.pc { cls := .ft, reason := .fpResult, detail := .nothing } := by
  have hc : convert (rm s) (s.nextFree.free.getLsbD 0) (fval o.s (s.fr o.s o.src)) =
      { int := some (roundToInt (rm s) neg m e).1, inexact := true } := by
    rw [hval, convert_of_inRange _ _ _ _ _ hlow hhigh, hinexact]
  refine ⟨{ s.nextFree.nextFree with fsr := conversionFsr { int := some (roundToInt (rm s) neg m e).1, inexact := true } s.fsr },
    fun k => ?_, rfl, fun hdest => ?_, ?_⟩
  · refine (getLsbD_conversionFsr _ s.fsr k).trans ?_
    by_cases h7 : k = 7
    · simp [h7]
    · simp [h7]
  · exact traps_of_raise hscalar hd ((scalarConvert_eq hexec hsrc rm hp hdest).trans (convertTo_of_inexact _ hc hf hti))
  · exact traps_of_raise hpiped hd ((pipedConvert_eq hexec hsrc rm hp).trans (convertTo_of_inexact _ hc hf hti))

end

/-- Settles O41: each rule begins with what may trap, before anything is written. -/
theorem arithmeticTraps : Obligations.ArithmeticTraps := by
  intro s hf hd
  refine ⟨fun o h hp => arithmetic_takesFpTraps hf hd h hp, fun o h => ?_, fun o hexec hsrc => ⟨fun hdest => ?_, ?_⟩,
    fun o neg m e hexec hp hsrc hval hti => ⟨fun hlow hhigh hinexact => ?_, fun hlow hhigh hinexact => ?_⟩,
    fun dpc o hexec hp h1 h2 hdest hfits op i hi reason fsr n => ?_⟩
  · exact takesFpTraps_of_fpCheck hf hd ((bodyPfmul3_eq o s).trans (pipedArith_eq h rfl ..)) rfl
  · exact takesFpTraps_of_fpCheck hf hd (bodyFamov_eq hexec hsrc hdest) rfl
  · exact takesFpTraps_of_fpCheck hf hd (bodyPfamov_eq hexec hsrc) rfl
  · exact conversion_traps_of_inexact hf hd hexec hp hsrc hval hti State.rm hlow hhigh hinexact rfl rfl
  · exact conversion_traps_of_inexact hf hd hexec hp hsrc hval hti (fun _ => .zero) hlow hhigh hinexact rfl rfl
  · obtain ⟨out, he⟩ := exists_exec_eq_dualOp s hi
    have hrule := dualOp_eq hexec hp h1 h2 hdest hfits op out
    exact ⟨fun hm => traps_of_raise he hd (hrule.trans (dualResults_of_multiplier_traps hm)),
      fun mres s1 hm ha => traps_of_raise he hd (hrule.trans (dualResults_of_adder_traps hm ha))⟩

/-! ## Dual operations (R323, R380 to R387) -/

/-! ### The two units -/

/-- FPCheck that answers a result has written only what it checks into. -/
theorem fpCheck_checksOnly {unit : FpUnit} {x : FVal} {p : Prec} {se : Bool} {s t : State} {v : Dword}
    (h : fpCheck unit x p se s = .done v t) : ChecksOnly s t := by
  cases se with
  | true =>
    rw [fpCheck_source] at h
    split at h
    · cases h
    · obtain ⟨-, rfl⟩ := h
      unfold ChecksOnly
      rw [afterNan_eq]
      rfl
  | false =>
    rw [fpCheck_result] at h
    split at h
    · cases h
    · obtain ⟨-, rfl⟩ := h
      rfl

/-- The same of a unit, which with an empty operand uses up a free value alone (R386). -/
theorem unitResult_checksOnly {unit : FpUnit} {op : ExactOp} {sp rp : Prec} {a b : UnitOperand} {s t : State} {v : Dword}
    (h : unitResult unit op sp rp a b s = .done v t) : ChecksOnly s t := by
  cases a with
  | empty => obtain ⟨-, rfl⟩ := h; rfl
  | value va qa =>
    cases b with
    | empty => obtain ⟨-, rfl⟩ := h; rfl
    | value vb qb => exact fpCheck_checksOnly h

/-- Both units having answered, the commit follows with SE the OR of the checks made (R386). -/
theorem dualResults_of_done {op : ExactOp} {o : Fp3} {ops : DualOperands} {k : Dword → Dword → State → Exec Unit}
    {s s1 s2 : State} {mres ares : Dword} (hm : unitResult .multiplier mulOp o.s o.r ops.m1 ops.m2 s = .done mres s1)
    (ha : unitResult .adder op o.r o.r ops.a1 ops.a2 s1 = .done ares s2) : dualResults op o ops k s =
      k mres ares (if bothPresent ops.a1 ops.a2 then s2.orSE (bothPresent ops.m1 ops.m2 && s1.se) else s2) := by
  unfold dualResults
  rw [hm, Exec.bind_done, ha, Exec.bind_done]

/-- SE is the OR with what was there before; the rest of fsr is kept. -/
theorem getLsbD_fsr_orSE (s : State) (before : Bool) (k : Nat) :
    (s.orSE before).fsr.getLsbD k = if k = 8 then before || s.se else s.fsr.getLsbD k :=
  getLsbD_setBit s.fsr 8 k _ (by decide)

/-! ### The constant and temporary registers (R387) -/

/-- The rows of the operand table whose multiplier reads KR. -/
theorem routeOf_m1_eq_kr_iff : ∀ dpc : BitVec 4,
    (routeOf dpc).m1 = .kr ↔ dpc.toNat < 4 ∨ dpc.toNat = 8 ∨ dpc.toNat = 10 := by decide

/-- The rows whose multiplier reads KI. -/
theorem routeOf_m1_eq_ki_iff : ∀ dpc : BitVec 4,
    (routeOf dpc).m1 = .ki ↔ 4 ≤ dpc.toNat ∧ dpc.toNat < 8 ∨ dpc.toNat = 12 ∨ dpc.toNat = 14 := by decide

theorem loadK_eq (s : State) (m1 : M1Route) (k : Tagged) :
    s.loadK m1 k = { s with kr := if m1 = .kr then k else s.kr, ki := if m1 = .ki then k else s.ki } := by
  cases m1 <;> rfl

/-- The state after the load of the constant register that the parameter DPC_K_LOAD asks for. -/
def State.afterKLoad (s : State) (dpc : BitVec 4) (knew : Tagged) : State :=
  if s.params.dpcKLoad.getLsbD dpc.toNat then s.loadK (routeOf dpc).m1 knew else s

/-- KR or KI is loaded in the rows that name it; of the new value only those rows speak. -/
theorem afterKLoad_eq (s : State) (dpc : BitVec 4) {knew v : Tagged}
    (hv : s.params.dpcKLoad.getLsbD dpc.toNat = true → knew = v) : s.afterKLoad dpc knew = { s with
      kr := if s.params.dpcKLoad.getLsbD dpc.toNat = true ∧ (dpc.toNat < 4 ∨ dpc.toNat = 8 ∨ dpc.toNat = 10) then v else s.kr
      ki := if s.params.dpcKLoad.getLsbD dpc.toNat = true ∧ (4 ≤ dpc.toNat ∧ dpc.toNat < 8 ∨ dpc.toNat = 12 ∨ dpc.toNat = 14)
        then v else s.ki } := by
  unfold State.afterKLoad
  by_cases hload : s.params.dpcKLoad.getLsbD dpc.toNat = true
  · simp only [hload, if_true, true_and, loadK_eq, hv hload, routeOf_m1_eq_kr_iff, routeOf_m1_eq_ki_iff]
  · simp only [hload, Bool.false_eq_true, if_false, false_and]

/-- The state after the load of T that the parameter DPC_T_LOAD asks for. -/
def State.afterTLoad (s : State) (dpc : BitVec 4) (mout : Option Entry) : State :=
  if s.params.dpcTLoad.getLsbD dpc.toNat then s.loadT mout else s

/-- T takes the leaving entry and its precision; an empty stage leaves any value of none. -/
theorem loadT_spec (s : State) (mout : Option Entry) :
    (s.loadT mout).t.tag = mout.map Entry.prec ∧ (∀ e, mout = some e → (s.loadT mout).t.value = e.value) ∧
      s.loadT mout = { s with t := (s.loadT mout).t, freeCount := (s.loadT mout).freeCount } := by
  cases mout with
  | none => exact ⟨rfl, fun _ h => (Option.some_ne_none _ h.symm).elim, rfl⟩
  | some e => exact ⟨rfl, fun e' h => by rw [← Option.some.inj h]; rfl, rfl⟩

theorem afterTLoad_spec (s : State) (dpc : BitVec 4) (mout : Option Entry) :
    (if s.params.dpcTLoad.getLsbD dpc.toNat = true then
      (s.afterTLoad dpc mout).t.tag = mout.map Entry.prec ∧ (∀ e, mout = some e → (s.afterTLoad dpc mout).t.value = e.value)
    else (s.afterTLoad dpc mout).t = s.t) ∧
    s.afterTLoad dpc mout = { s with t := (s.afterTLoad dpc mout).t, freeCount := (s.afterTLoad dpc mout).freeCount } := by
  unfold State.afterTLoad
  obtain ⟨htag, hvalue, hkept⟩ := loadT_spec s mout
  by_cases hload : s.params.dpcTLoad.getLsbD dpc.toNat = true
  · simp only [hload, if_true]
    exact ⟨⟨htag, hvalue⟩, hkept⟩
  · simp only [hload, Bool.false_eq_true, if_false, and_self]

/-- What both loads leave. -/
theorem afterLoads_spec (s : State) (dpc : BitVec 4) (mout : Option Entry) {knew v : Tagged}
    (hv : s.params.dpcKLoad.getLsbD dpc.toNat = true → knew = v) :
    let u := (s.afterKLoad dpc knew).afterTLoad dpc mout
    let n := dpc.toNat
    let loadsK := s.params.dpcKLoad.getLsbD n
    u.kr = (if loadsK = true ∧ (n < 4 ∨ n = 8 ∨ n = 10) then v else s.kr) ∧
    u.ki = (if loadsK = true ∧ (4 ≤ n ∧ n < 8 ∨ n = 12 ∨ n = 14) then v else s.ki) ∧
    (if s.params.dpcTLoad.getLsbD n = true then u.t.tag = mout.map Entry.prec ∧ (∀ e, mout = some e → u.t.value = e.value)
      else u.t = s.t) ∧
    u = { s with kr := u.kr, ki := u.ki, t := u.t, freeCount := u.freeCount } := by
  rw [afterKLoad_eq s dpc hv]
  obtain ⟨ht, hkept⟩ := afterTLoad_spec { s with
    kr := if s.params.dpcKLoad.getLsbD dpc.toNat = true ∧ (dpc.toNat < 4 ∨ dpc.toNat = 8 ∨ dpc.toNat = 10) then v else s.kr
    ki := if s.params.dpcKLoad.getLsbD dpc.toNat = true ∧ (4 ≤ dpc.toNat ∧ dpc.toNat < 8 ∨ dpc.toNat = 12 ∨ dpc.toNat = 14)
      then v else s.ki } dpc mout
  refine ⟨?_, ?_, ht, ?_⟩ <;> rw [hkept]

/-! ### The commit (R385) -/

/-- The commit loads the constant and temporary registers, pushes both results, and retires what the row names. -/
theorem dualCommit_eq (dpc : BitVec 4) (out : DualOut) (o : Fp3) (knew : Tagged) (mres ares : Dword) (s : State) :
    dualCommit dpc out o knew mres ares s =
      let loaded := (s.afterKLoad dpc knew).afterTLoad dpc (s.multiplier.last (depthOf o.s))
      retire (out.leaving o s) o.r o.dest { loaded with
        adder := loaded.adder.push3 (some (entryOf o.r ares))
        multiplier := loaded.multiplier.push (depthOf o.s) (some (entryOf o.r mres)) } := by
  have hparams : (s.afterKLoad dpc knew).params = s.params := by rw [afterKLoad_eq s dpc fun _ => rfl]
  unfold dualCommit State.afterTLoad
  rw [hparams]
  cases out <;> rfl

/-- A push at the depth of double sources empties the third stage (R313, R315). -/
theorem push_depthOf (m : Pipe) (p : Prec) (e : Option Entry) :
    m.push (depthOf p) e = { s1 := e, s2 := m.s1, s3 := if p = .double then none else m.s2 } := by
  cases p <;> rfl

/-- The constant that a row which loads one loads is fsrc1 at S (R387). -/
theorem dualOperands_knew_of_loads {dpc : BitVec 4} (o : Fp3) {s : State}
    (h : s.params.dpcKLoad.getLsbD dpc.toNat = true) :
    (dualOperands dpc o s).knew = { value := s.fr o.s o.src1, tag := some o.s } := if_pos h

/-- What a dual operation leaves: `out` is the entry that fdest receives, `se` is SE, and `fsr` gives the other bits of fsr. -/
def DualEffect (s : State) (dpc : BitVec 4) (o : Fp3) (mres ares : Dword) (out : Option Entry) (se : Bool) (fsr : Word)
    (u : State) : Prop :=
  let n := dpc.toNat
  let loadsK := s.params.dpcKLoad.getLsbD n
  let mout := if o.s = .double then s.multiplier.s2 else s.multiplier.s3
  Retired s out o.r o.dest u ∧
  u.adder = { s1 := some (entryOf o.r ares), s2 := s.adder.s1, s3 := s.adder.s2 } ∧
  u.multiplier =
    { s1 := some (entryOf o.r mres), s2 := s.multiplier.s1, s3 := if o.s = .double then none else s.multiplier.s2 } ∧
  u.kr = (if loadsK = true ∧ (n < 4 ∨ n = 8 ∨ n = 10) then { value := s.fr o.s o.src1, tag := some o.s } else s.kr) ∧
  u.ki = (if loadsK = true ∧ (4 ≤ n ∧ n < 8 ∨ n = 12 ∨ n = 14) then { value := s.fr o.s o.src1, tag := some o.s } else s.ki) ∧
  (if s.params.dpcTLoad.getLsbD n = true then u.t.tag = mout.map Entry.prec ∧ (∀ e, mout = some e → u.t.value = e.value)
    else u.t = s.t) ∧
  u.fsr.getLsbD 8 = se ∧ (∀ k, k ≠ 8 → u.fsr.getLsbD k = fsr.getLsbD k) ∧ MemoryKept s u ∧
  u = { s with
    fpr := u.fpr, fsr := u.fsr, kr := u.kr, ki := u.ki, t := u.t, adder := u.adder, multiplier := u.multiplier
    freeCount := u.freeCount }

theorem dualCommit_leaves (out : DualOut) (dpc : BitVec 4) (o : Fp3) (mres ares : Dword) {s t : State} {se : Bool} {fsr : Word}
    (ht : ChecksOnly s t) (hse : t.fsr.getLsbD 8 = se) (hfsr : ∀ k, k ≠ 8 → t.fsr.getLsbD k = fsr.getLsbD k)
    (hfits : retireFits (out.leaving o s) o.dest = true) :
    (dualCommit dpc out o (dualOperands dpc o s).knew mres ares t).Leaves
      (DualEffect s dpc o mres ares (out.leaving o s) se fsr) := by
  have hparams : t.params = s.params := by rw [ht]
  have hadder : t.adder = s.adder := by rw [ht]
  have hmult : t.multiplier = s.multiplier := by rw [ht]
  have hleaving : out.leaving o t = out.leaving o s := by cases out <;> simp only [DualOut.leaving, hadder, hmult]
  obtain ⟨hkr, hki, hT, hloaded⟩ := afterLoads_spec t dpc (s.multiplier.last (depthOf o.s))
    (fun h => dualOperands_knew_of_loads o (hparams ▸ h))
  rw [dualCommit_eq, hleaving, hmult]
  rw [hparams] at hkr hki hT
  generalize (t.afterKLoad dpc (dualOperands dpc o s).knew).afterTLoad dpc (s.multiplier.last (depthOf o.s)) = l at *
  obtain ⟨u, hu, hretired, hkept⟩ := retire_of_fits (r := o.r) (s := s) (t := { l with
    adder := l.adder.push3 (some (entryOf o.r ares))
    multiplier := l.multiplier.push (depthOf o.s) (some (entryOf o.r mres)) }) hfits (by rw [hloaded, ht])
  have hufsr : u.fsr = t.fsr := by rw [hkept, hloaded]
  refine ⟨u, hu, hretired, ?_, ?_, ?_, ?_, ?_, hufsr ▸ hse, hufsr ▸ hfsr, fun a => ?_, ?_⟩
  · rw [hkept, hloaded, ht]; rfl
  · rw [← push_depthOf, hkept, hloaded, ht]
  · rw [hkept, hkr, ht]
  · rw [hkept, hki, ht]
  · have hut : u.t = l.t := by rw [hkept]
    have htt : t.t = s.t := by rw [ht]
    rw [← last_depthOf, hut, ← htt]
    exact hT
  · rw [hkept, hloaded, ht]
  · rw [hkept, hloaded, ht]

/-- SE after both units' results, as the commit finds it. -/
def dualSe (ops : DualOperands) (s1 s2 : State) : Bool :=
  if bothPresent ops.a1 ops.a2 then (bothPresent ops.m1 ops.m2 && s1.se) || s2.se else s2.se

section
variable {s s1 s2 : State} {dpc : BitVec 4} {o : Fp3} {op : ExactOp} {mres ares : Dword}

/-- Two units that take no trap, and the commit. -/
theorem dualResults_leaves (out : DualOut)
    (hm : unitResult .multiplier mulOp o.s o.r (dualOperands dpc o s).m1 (dualOperands dpc o s).m2 s = .done mres s1)
    (ha : unitResult .adder op o.r o.r (dualOperands dpc o s).a1 (dualOperands dpc o s).a2 s1 = .done ares s2)
    (hfits : retireFits (out.leaving o s) o.dest = true) :
    (dualResults op o (dualOperands dpc o s) (dualCommit dpc out o (dualOperands dpc o s).knew) s).Leaves
      (DualEffect s dpc o mres ares (out.leaving o s) (dualSe (dualOperands dpc o s) s1 s2) s2.fsr) := by
  have h2 : ChecksOnly s s2 := (unitResult_checksOnly hm).trans (unitResult_checksOnly ha)
  rw [dualResults_of_done hm ha]
  unfold dualSe
  cases bothPresent (dualOperands dpc o s).a1 (dualOperands dpc o s).a2 with
  | false => exact dualCommit_leaves out dpc o mres ares h2 rfl (fun _ _ => rfl) hfits
  | true =>
    exact dualCommit_leaves out dpc o mres ares (h2.trans (u := s2.orSE _) rfl) (getLsbD_fsr_orSE s2 _ 8)
      (fun k hk => (getLsbD_fsr_orSE s2 _ k).trans (if_neg hk)) hfits

end

/-- Settles O49: the results of the two units, committed with the adder's or the multiplier's leaving entry. -/
theorem dualOperations : Obligations.DualOperations := by
  intro s s1 s2 dpc o mres ares hexec hp h1 h2 hdest ops n loadsK aout mout hfits hm rule
  have hrule : ∀ {i : Instr} {op : ExactOp} {out : DualOut} {e : Option Entry}, out.leaving o s = e →
      exec i s = finish s.pc (dualOp op out dpc o s) → rule i op e := by
    rintro i op out e rfl he ha hretire
    rw [dualOp_eq hexec hp h1 h2 hdest hfits] at he
    exact completes_of_leaves he (dualResults_leaves out hm ha hretire)
  have hmout : DualOut.multiplier.leaving o s = mout := last_depthOf s.multiplier o.s
  exact ⟨hrule (out := .adder) rfl rfl, hrule (out := .adder) rfl rfl, hrule hmout rfl, hrule hmout rfl⟩

/-! ## Graphics (R312, R317, R400 to R407) -/

/-! ### Fields of a 64-bit value -/

/-- Two values are equal when their fields of one width are. -/
theorem dword_eq_of_fields {v w : Dword} (n m : Nat) (hn : 0 < n) (hnm : n * m = 64)
    (h : ∀ i, i < m → v.extractLsb' (n * i) n = w.extractLsb' (n * i) n) : v = w := by
  apply BitVec.eq_of_getLsbD_eq
  intro k hk
  have hfield := congrArg (BitVec.getLsbD · (k % n)) (h (k / n) (Nat.div_lt_of_lt_mul (hnm ▸ hk)))
  simpa only [BitVec.getLsbD_extractLsb', Nat.mod_lt k hn, decide_true, Bool.true_and, Nat.div_add_mod] using hfield

/-- The unsigned value of a field. -/
theorem toNat_field (v : Dword) (n i : Nat) : (v.extractLsb' (n * i) n).toNat = v.toNat / 2 ^ (n * i) % 2 ^ n := by
  rw [BitVec.extractLsb'_toNat, Nat.shiftRight_eq_div_pow]

/-- The field of the first value is the lesser one (R405, R406). -/
def fieldLess (a b : Dword) (i n : Nat) : Bool :=
  decide (a.toNat / 2 ^ (n * i) % 2 ^ n < b.toNat / 2 ^ (n * i) % 2 ^ n)

theorem ult_field (a b : Dword) (i n : Nat) : (a.extractLsb' (n * i) n).ult (b.extractLsb' (n * i) n) = fieldLess a b i n := by
  unfold BitVec.ult fieldLess
  rw [toNat_field, toNat_field]

/-- The lesser of two fields, whichever comparison decides. -/
theorem minField_eq {n : Nat} (a b : BitVec n) : minField a b = if a.ult b then a else b := by
  unfold minField BitVec.ult
  rcases Nat.lt_trichotomy a.toNat b.toNat with h | h | h
  · rw [decide_eq_true h, decide_eq_false (Nat.lt_asymm h)]; rfl
  · rw [BitVec.eq_of_toNat_eq h, ite_self]
  · rw [decide_eq_true h, decide_eq_false (Nat.lt_asymm h)]; rfl

theorem minField_field (a b : Dword) (i n : Nat) : minField (a.extractLsb' (n * i) n) (b.extractLsb' (n * i) n) =
    if fieldLess a b i n then a.extractLsb' (n * i) n else b.extractLsb' (n * i) n := by
  rw [minField_eq, ult_field]

/-- The two lesser fields of fzchkl, put together (R405). -/
theorem lesserFields32 {a b v : Dword} (hv : ∀ i, i < 2 → v.extractLsb' (32 * i) 32 =
      if fieldLess a b i 32 then a.extractLsb' (32 * i) 32 else b.extractLsb' (32 * i) 32) :
    minField (field32 a 1) (field32 b 1) ++ minField (field32 a 0) (field32 b 0) = v := by
  refine dword_eq_of_fields 32 2 (by decide) rfl fun i hi => ?_
  rw [hv i hi, ← minField_field]
  interval_cases i
  · exact BitVec.extractLsb'_append_eq_right
  · exact BitVec.extractLsb'_append_eq_left

/-- The four lesser fields of fzchks, put together (R406). -/
theorem lesserFields16 {a b v : Dword} (hv : ∀ i, i < 4 → v.extractLsb' (16 * i) 16 =
      if fieldLess a b i 16 then a.extractLsb' (16 * i) 16 else b.extractLsb' (16 * i) 16) :
    minField (field16 a 3) (field16 b 3) ++ minField (field16 a 2) (field16 b 2) ++
      minField (field16 a 1) (field16 b 1) ++ minField (field16 a 0) (field16 b 0) = v := by
  refine dword_eq_of_fields 16 4 (by decide) rfl fun i hi => ?_
  rw [hv i hi, ← minField_field]
  interval_cases i
  · exact BitVec.extractLsb'_append_eq_right
  · exact (BitVec.extractLsb'_append_eq_of_le (by decide)).trans BitVec.extractLsb'_append_eq_right
  · exact (BitVec.extractLsb'_append_eq_of_le (by decide)).trans
      ((BitVec.extractLsb'_append_eq_of_le (by decide)).trans BitVec.extractLsb'_append_eq_right)
  · exact (BitVec.extractLsb'_append_eq_of_le (by decide)).trans
      ((BitVec.extractLsb'_append_eq_of_le (by decide)).trans BitVec.extractLsb'_append_eq_left)

/-- A shifted mask with two new bits above the six that are kept (R405). -/
theorem mask32_eq {pm old : BitVec 8} {low : Nat → Bool} (hold : ∀ i, i < 6 → pm.getLsbD i = old.getLsbD (i + 2))
    (hnew : ∀ i, i < 2 → pm.getLsbD (i + 6) = low i) :
    BitVec.ofBool (low 1) ++ BitVec.ofBool (low 0) ++ old.extractLsb' 2 6 = pm := by
  refine BitVec.eq_of_getLsbD_eq fun k hk => ?_
  rw [BitVec.getLsbD_append, BitVec.getLsbD_append, BitVec.getLsbD_extractLsb', BitVec.getLsbD_ofBool, BitVec.getLsbD_ofBool]
  by_cases h : k < 6
  · rw [if_pos h, decide_eq_true h, hold k h, Nat.add_comm]; rfl
  · have hpm : pm.getLsbD k = low (k - 6) := by rw [← hnew (k - 6) (by omega), Nat.sub_add_cancel (by omega)]
    rw [if_neg h, hpm]
    obtain rfl | rfl : k = 6 ∨ k = 7 := by omega
    · rfl
    · rfl

/-- A shifted mask with four new bits above the four that are kept (R406). -/
theorem mask16_eq {pm old : BitVec 8} {low : Nat → Bool} (hold : ∀ i, i < 4 → pm.getLsbD i = old.getLsbD (i + 4))
    (hnew : ∀ i, i < 4 → pm.getLsbD (i + 4) = low i) :
    BitVec.ofBool (low 3) ++ BitVec.ofBool (low 2) ++ BitVec.ofBool (low 1) ++ BitVec.ofBool (low 0) ++ old.extractLsb' 4 4 =
      pm := by
  refine BitVec.eq_of_getLsbD_eq fun k hk => ?_
  rw [BitVec.getLsbD_append, BitVec.getLsbD_append, BitVec.getLsbD_append, BitVec.getLsbD_append, BitVec.getLsbD_extractLsb',
    BitVec.getLsbD_ofBool, BitVec.getLsbD_ofBool, BitVec.getLsbD_ofBool, BitVec.getLsbD_ofBool]
  by_cases h : k < 4
  · rw [if_pos h, decide_eq_true h, hold k h, Nat.add_comm]; rfl
  · have hpm : pm.getLsbD k = low (k - 4) := by rw [← hnew (k - 4) (by omega), Nat.sub_add_cancel (by omega)]
    rw [if_neg h, hpm]
    obtain rfl | rfl | rfl | rfl : k = 4 ∨ k = 5 ∨ k = 6 ∨ k = 7 := by omega
    · rfl
    · rfl
    · rfl
    · rfl

theorem newerBit_field (a b : Dword) (i n : Nat) :
    newerBit (a.extractLsb' (n * i) n) (b.extractLsb' (n * i) n) = BitVec.ofBool (fieldLess a b i n) := by
  unfold newerBit
  rw [ult_field]

/-! ### What the operations write besides their result -/

/-- A graphics operation has written MERGE, of which `merge` holds, and the pixel mask, which is `pm`, and nothing else. -/
def GraphicsUpdate (s : State) (merge : Dword → Prop) (pm : BitVec 8) (t : State) : Prop :=
  merge t.merge.value ∧ t.psr.extractLsb' 24 8 = pm ∧ PsrKeptBut (fun k => 24 ≤ k) s t ∧
    t = { s with psr := t.psr, merge := t.merge }

theorem graphicsUpdate_refl (s : State) : GraphicsUpdate s (fun m => m = s.merge.value) s.pm s :=
  ⟨rfl, rfl, fun _ _ => rfl, rfl⟩

theorem graphicsUpdate_setMerge (s : State) (m : Dword) : GraphicsUpdate s (fun m' => m' = m) s.pm (s.setMerge m) :=
  ⟨rfl, rfl, fun _ _ => rfl, rfl⟩

theorem graphicsUpdate_setPM (s : State) (pm : BitVec 8) :
    GraphicsUpdate s (fun m => m = s.merge.value) pm (s.setPM pm) := by
  obtain ⟨hpm, hkept⟩ := pm_of_setField (s := s) (u := s.setPM pm) rfl
  exact ⟨rfl, hpm, hkept, rfl⟩

/-- faddp's new MERGE, for the three pixel sizes (R403). -/
theorem mergePixels_eq {ps : BitVec 2} (merge r : Dword) (h : ps ≠ 3#2) : mergePixels ps merge r = some (
    if ps = 0#2 then (merge >>> 8) ||| (r &&& 0xFF00FF00FF00FF00#64)
    else if ps = 1#2 then (merge >>> 6) ||| (r &&& 0xFC00FC00FC00FC00#64)
    else (merge >>> 8) ||| (r &&& 0xFF000000FF000000#64)) := by
  have hcases : ∀ ps : BitVec 2, ps ≠ 3#2 → ps = 0#2 ∨ ps = 1#2 ∨ ps = 2#2 := by decide
  obtain rfl | rfl | rfl := hcases ps h
  · rfl
  · rfl
  · rfl

theorem zCheck32_eq {a b v : Dword} {pm : BitVec 8} {s : State}
    (hv : ∀ i, i < 2 → v.extractLsb' (32 * i) 32 =
      if fieldLess a b i 32 then a.extractLsb' (32 * i) 32 else b.extractLsb' (32 * i) 32)
    (hold : ∀ i, i < 6 → pm.getLsbD i = s.pm.getLsbD (i + 2)) (hnew : ∀ i, i < 2 → pm.getLsbD (i + 6) = fieldLess a b i 32) :
    zCheck32 a b s = .done v (s.setPM pm) := by
  have hmask : newerBit (field32 a 1) (field32 b 1) ++ newerBit (field32 a 0) (field32 b 0) ++ s.pm.extractLsb' 2 6 = pm := by
    rw [← mask32_eq hold hnew, ← newerBit_field, ← newerBit_field]
    rfl
  unfold zCheck32
  rw [lesserFields32 hv, hmask]

theorem zCheck16_eq {a b v : Dword} {pm : BitVec 8} {s : State}
    (hv : ∀ i, i < 4 → v.extractLsb' (16 * i) 16 =
      if fieldLess a b i 16 then a.extractLsb' (16 * i) 16 else b.extractLsb' (16 * i) 16)
    (hold : ∀ i, i < 4 → pm.getLsbD i = s.pm.getLsbD (i + 4)) (hnew : ∀ i, i < 4 → pm.getLsbD (i + 4) = fieldLess a b i 16) :
    zCheck16 a b s = .done v (s.setPM pm) := by
  have hmask : newerBit (field16 a 3) (field16 b 3) ++ newerBit (field16 a 2) (field16 b 2) ++
      newerBit (field16 a 1) (field16 b 1) ++ newerBit (field16 a 0) (field16 b 0) ++ s.pm.extractLsb' 4 4 = pm := by
    rw [← mask16_eq hold hnew, ← newerBit_field, ← newerBit_field, ← newerBit_field, ← newerBit_field]
    rfl
  unfold zCheck16
  rw [lesserFields16 hv, hmask]

/-! ### The scalar and the pipelined form -/

/-- What both forms of a graphics instruction leave but for the result: MERGE, PM, and the frame. -/
def GraphicsFrame (s : State) (merge : Dword → Prop) (pm : BitVec 8) (u : State) : Prop :=
  merge u.merge.value ∧ u.psr.extractLsb' 24 8 = pm ∧ PsrKeptBut (fun k => 24 ≤ k) s u ∧ MemoryKept s u ∧
    u = { s with fpr := u.fpr, psr := u.psr, merge := u.merge, graphics := u.graphics, freeCount := u.freeCount }

/-- The scalar form completes with the result in fdest, the pipelined form with the result issued. -/
def BothForms (s : State) (scalarI pipedI : Instr) (r : Prec) (dest : Reg) (v : Dword) (merge : Dword → Prop) (pm : BitVec 8) :
    Prop :=
  (alignedFor r dest = true → Completes scalarI s none fun u =>
    (FpWritten s r dest v u ∧ u.graphics = s.graphics) ∧ GraphicsFrame s merge pm u) ∧
  (retireFits s.graphics dest = true → Completes pipedI s none fun u =>
    (Retired s s.graphics r dest u ∧ u.graphics = some (entryOf r v)) ∧ GraphicsFrame s merge pm u)

/-- A pipeline entry holds all that is written of its value to the registers of its precision. -/
theorem fw_congr {r : Prec} {v w : Dword} (h : entryOf r v = entryOf r w) (s : State) (dest : Reg) :
    s.fw r dest v = s.fw r dest w := by
  cases r with
  | single =>
    have hlow := congrArg (fun e => e.value.extractLsb' 0 32) h
    simp only [entryOf, extractLsb'_setWidth_of_le _ (show 32 ≤ 64 by decide)] at hlow
    exact congrArg (s.setF dest) hlow
  | double => exact congrArg (fun e => s.setFd dest e.value) h

section
variable {s t : State} {merge : Dword → Prop} {pm : BitVec 8} (hu : GraphicsUpdate s merge pm t) {r : Prec} {dest : Reg}
  {v v' : Dword} (hv : entryOf r v' = entryOf r v)
include hu hv

theorem writeScalar_leaves (hdest : alignedFor r dest = true) : (writeScalar r dest v' t).Leaves fun u =>
    (FpWritten s r dest v u ∧ u.graphics = s.graphics) ∧ GraphicsFrame s merge pm u := by
  obtain ⟨hmerge, hpm, hpsr, hkept⟩ := hu
  have hfw : t.fw r dest v = { t with fpr := (t.fw r dest v).fpr } := by cases r <;> rfl
  refine ⟨t.fw r dest v, by unfold writeScalar; rw [fw_congr hv], ⟨fpWritten_fw hdest (by rw [hkept]), ?_⟩, ?_, ?_, fun k hk => ?_,
    fun a => ?_, ?_⟩
  · rw [State.fw_graphics, hkept]
  · rw [State.fw_merge]; exact hmerge
  · rw [State.fw_psr]; exact hpm
  · rw [State.fw_psr]; exact hpsr k hk
  · rw [State.fw_mem, hkept]
  · rw [hfw, hkept]

theorem pushGraphics_leaves (hfits : retireFits s.graphics dest = true) : (pushGraphics r dest v' t).Leaves fun u =>
    (Retired s s.graphics r dest u ∧ u.graphics = some (entryOf r v)) ∧ GraphicsFrame s merge pm u := by
  obtain ⟨hmerge, hpm, hpsr, hkept⟩ := hu
  obtain ⟨u, hissue, hretired, hrest⟩ :=
    issueGraphics_of_fits (t := t) (r := r) (some (entryOf r v')) hfits (by rw [hkept]) (by rw [hkept])
  have hmem : u.mem = s.mem := by rw [hrest, hkept]
  have hupsr : u.psr = t.psr := by rw [hrest]
  have humerge : u.merge = t.merge := by rw [hrest]
  refine ⟨u, hissue, ⟨hretired, ?_⟩, humerge ▸ hmerge, hupsr ▸ hpm, fun k hk => ?_, fun a => by rw [hmem], ?_⟩
  · rw [hrest, hv]
  · rw [hupsr]; exact hpsr k hk
  · rw [hrest, hkept]

/-- An instruction pair whose rules write the result and issue it. -/
theorem bothForms_of {scalarI pipedI : Instr}
    (hs : alignedFor r dest = true → exec scalarI s = finish s.pc (writeScalar r dest v' t))
    (hp : exec pipedI s = finish s.pc (pushGraphics r dest v' t)) : BothForms s scalarI pipedI r dest v merge pm :=
  ⟨fun hdest => completes_of_leaves (hs hdest) (writeScalar_leaves hu hv hdest),
    fun hfits => completes_of_leaves hp (pushGraphics_leaves hu hv hfits)⟩

end

/-- An instruction pair of two sources, by what its operation answers. -/
theorem bothForms_of_op {s t : State} {merge : Dword → Prop} {pm : BitVec 8} {o : Fp3} {v v' : Dword} {op : GraphicsOp}
    {pair : Prec → Prec → Bool} {scalarI pipedI : Instr} (hready : SourcesReady s o) (hpair : pair o.s o.r = true)
    (hop : op (s.fr o.s o.src1) (s.fr o.s o.src2) s = .done v' t) (hu : GraphicsUpdate s merge pm t)
    (hv : entryOf o.r v' = entryOf o.r v) (hs : exec scalarI s = finish s.pc (scalarGraphics pair op o s))
    (hp : exec pipedI s = finish s.pc (pipedGraphics pair op o s)) : BothForms s scalarI pipedI o.r o.dest v merge pm := by
  obtain ⟨hexec, h1, h2⟩ := hready
  refine bothForms_of hu hv (fun hdest => hs.trans ?_) (hp.trans ?_)
  · unfold scalarGraphics
    rw [fpEscape_of_executes hexec, requirePair_of hpair, requireAligned_of (by rw [h1, h2, hdest]; rfl), hop]
    rfl
  · unfold pipedGraphics
    rw [fpEscape_of_executes hexec, requirePair_of hpair, requireAligned_of (by rw [h1, h2]; rfl), hop]
    rfl

/-- form and pform: the source or MERGE, and MERGE cleared (R407). -/
theorem form_bothForms {s : State} {o : Fp2} (hexec : Executes s o.d) (hpair : pairDouble o.s o.r = true)
    (hsrc : alignedFor .double o.src = true) :
    BothForms s (.form o) (.pform o) .double o.dest (s.fd o.src ||| s.merge.value) (fun m => m = 0#64) s.pm := by
  refine bothForms_of (graphicsUpdate_setMerge s 0#64) rfl (fun hdest => congrArg (finish s.pc) ?_) (congrArg (finish s.pc) ?_)
  · unfold bodyForm
    rw [fpEscape_of_executes hexec, requirePair_of hpair, requireAligned_of (by rw [hsrc, hdest]; rfl)]
    rfl
  · unfold bodyPform
    rw [fpEscape_of_executes hexec, requirePair_of hpair, requireAligned_of hsrc]
    rfl

/-- The low word of a sum of two words is their sum (R401). -/
theorem entryOf_single_add (x y : Word) :
    entryOf .single (x.setWidth 64 + y.setWidth 64) = entryOf .single ((x + y).setWidth 64) := by
  have hlow : (x.setWidth 64 + y.setWidth 64).extractLsb' 0 32 = ((x + y).setWidth 64).extractLsb' 0 32 := by
    rw [extractLsb'_setWidth_of_le _ (by decide)]
    apply BitVec.eq_of_toNat_eq
    simp only [BitVec.extractLsb'_toNat, BitVec.toNat_add, BitVec.toNat_setWidth, Nat.shiftRight_zero]
    omega
  unfold entryOf
  rw [hlow]

/-- The low word of a difference of two words is their difference (R402). -/
theorem entryOf_single_sub (x y : Word) :
    entryOf .single (x.setWidth 64 - y.setWidth 64) = entryOf .single ((x - y).setWidth 64) := by
  have hlow : (x.setWidth 64 - y.setWidth 64).extractLsb' 0 32 = ((x - y).setWidth 64).extractLsb' 0 32 := by
    rw [extractLsb'_setWidth_of_le _ (by decide)]
    apply BitVec.eq_of_toNat_eq
    simp only [BitVec.extractLsb'_toNat, BitVec.toNat_sub, BitVec.toNat_setWidth, Nat.shiftRight_zero]
    omega
  unfold entryOf
  rw [hlow]

/-- The graphics instructions of two single sources. -/
theorem single_bothForms {s : State} {o : Fp3} (hexec : Executes s o.d) (hs : o.s = .single) (hr : o.r = .single) :
    BothForms s (.fiadd o) (.pfiadd o) .single o.dest ((s.f o.src1 + s.f o.src2).setWidth 64) (fun m => m = s.merge.value) s.pm ∧
    BothForms s (.fisub o) (.pfisub o) .single o.dest ((s.f o.src1 - s.f o.src2).setWidth 64) (fun m => m = s.merge.value)
      s.pm := by
  obtain ⟨src1, src2, dest, _, _, d⟩ := o
  obtain rfl : _ = Prec.single := hs
  obtain rfl : _ = Prec.single := hr
  exact ⟨bothForms_of_op ⟨hexec, rfl, rfl⟩ rfl rfl (graphicsUpdate_refl s) (entryOf_single_add _ _) rfl rfl,
    bothForms_of_op ⟨hexec, rfl, rfl⟩ rfl rfl (graphicsUpdate_refl s) (entryOf_single_sub _ _) rfl rfl⟩

section
variable {s : State} {o : Fp3} (hready : SourcesReady s o) (hs : o.s = .double) (hr : o.r = .double)
include hready hs hr

/-- A graphics instruction of two double sources, by what its operation answers. -/
theorem double_bothForms {t : State} {merge : Dword → Prop} {pm : BitVec 8} {v : Dword} {op : GraphicsOp}
    {pair : Prec → Prec → Bool} {scalarI pipedI : Instr} (hpair : pair .double .double = true)
    (hop : op (s.fd o.src1) (s.fd o.src2) s = .done v t) (hu : GraphicsUpdate s merge pm t)
    (he : exec scalarI s = finish s.pc (scalarGraphics pair op o s))
    (hp : exec pipedI s = finish s.pc (pipedGraphics pair op o s)) : BothForms s scalarI pipedI .double o.dest v merge pm := by
  rw [← hr]
  exact bothForms_of_op hready (by rw [hs, hr]; exact hpair) (by rw [hs]; exact hop) hu rfl he hp

end

/-- Settles O50: what each operation answers and writes, under the two forms they share. -/
theorem graphicsResults : Obligations.GraphicsResults := by
  intro s
  refine ⟨fun o hexec hs hr => single_bothForms hexec hs hr, fun o hexec hs hr h1 h2 => ?_, fun o hexec hs hr hsrc =>
    form_bothForms hexec (by rw [hs, hr]; rfl) hsrc⟩
  have hready : SourcesReady s o := ⟨hexec, by rw [hs]; exact h1, by rw [hs]; exact h2⟩
  refine ⟨double_bothForms hready hs hr rfl rfl (graphicsUpdate_refl s) rfl rfl,
    double_bothForms hready hs hr rfl rfl (graphicsUpdate_refl s) rfl rfl, fun hps => ?_,
    double_bothForms hready hs hr rfl rfl (graphicsUpdate_setMerge s _) rfl rfl, fun v pm hv hold hnew => ?_,
    fun v pm hv hold hnew => ?_⟩
  · refine double_bothForms (op := pixelAdd) hready hs hr rfl ?_ (graphicsUpdate_setMerge s _) rfl rfl
    unfold pixelAdd
    rw [mergePixels_eq _ _ hps]
  · exact double_bothForms hready hs hr rfl (zCheck32_eq hv hold hnew) (graphicsUpdate_setPM s pm) rfl rfl
  · exact double_bothForms hready hs hr rfl (zCheck16_eq hv hold hnew) (graphicsUpdate_setPM s pm) rfl rfl

end Sys2Proof.Machine

/-! # Floating-point arithmetic, conversions and moves (spec/45_fp_arith.md) -/

namespace Sys2Proof.Machine

/-! ## Exact arithmetic on rational numbers (R343 to R345, R353 to R355) -/

/-- The factor of a sign. -/
def signFactor (neg : Bool) : ℚ := if neg then -1 else 1

@[simp] theorem signFactor_not (neg : Bool) : signFactor (!neg) = -signFactor neg := by
  cases neg <;> simp [signFactor]

theorem signFactor_bne (a b : Bool) : signFactor (a != b) = signFactor a * signFactor b := by
  cases a <;> cases b <;> simp [signFactor]

theorem rat_fin (neg : Bool) (m : Nat) (e : Int) : (FVal.fin neg m e).rat = some (signFactor neg * m * 2 ^ e) := rfl

/-- Only a finite value stands for a number. -/
theorem exists_fin_of_rat {a : FVal} {x : ℚ} (h : a.rat = some x) :
    ∃ neg m e, a = .fin neg m e ∧ x = signFactor neg * m * 2 ^ e := by
  cases a with
  | nan => cases h
  | inf neg => cases h
  | fin neg m e => exact ⟨neg, m, e, rfl, (Option.some.inj h).symm⟩

theorem rat_neg {a : FVal} {x : ℚ} (h : a.rat = some x) : a.neg.rat = some (-x) := by
  obtain ⟨neg, m, e, rfl, rfl⟩ := exists_fin_of_rat h
  rw [FVal.neg, rat_fin, signFactor_not, neg_mul, neg_mul]

theorem cast_signedUnits (neg : Bool) (m : Nat) : (signedUnits neg m : ℚ) = signFactor neg * m := by
  cases neg <;> simp [signedUnits, signFactor]

/-- A magnitude counted in smaller units. -/
theorem cast_mul_two_pow_toNat (m : Nat) {q e : Int} (h : q ≤ e) :
    ((m * 2 ^ (e - q).toNat : Nat) : ℚ) * 2 ^ q = m * 2 ^ e := by
  have hexp : ((e - q).toNat : Int) = e - q := Int.toNat_of_nonneg (sub_nonneg.mpr h)
  rw [Nat.cast_mul, Nat.cast_pow, Nat.cast_ofNat, ← zpow_natCast, hexp, mul_assoc, ← zpow_add₀ two_ne_zero, sub_add_cancel]

/-- Scaling to a smaller unit keeps the number. -/
theorem scaleTo_mul_zpow {q e : Int} (h : q ≤ e) (neg : Bool) (m : Nat) :
    (scaleTo q neg m e : ℚ) * 2 ^ q = signFactor neg * m * 2 ^ e := by
  unfold scaleTo
  rw [cast_signedUnits, mul_assoc, cast_mul_two_pow_toNat m h, mul_assoc]

/-- A signed count of units as a sign and a magnitude. -/
theorem rat_fin_natAbs (z q : Int) : (FVal.fin (decide (z < 0)) z.natAbs q).rat = some ((z : ℚ) * 2 ^ q) := by
  have hz : signFactor (decide (z < 0)) * (z.natAbs : ℚ) = z := by
    rw [Nat.cast_natAbs]
    by_cases h : z < 0
    · simp [signFactor, h, abs_of_neg h]
    · simp [signFactor, h, abs_of_nonneg (not_lt.mp h)]
  rw [rat_fin, hz]

/-- The units of a sum of two finite values at the smaller of their exponents. -/
def sumUnits (na : Bool) (ma : Nat) (ea : Int) (nb : Bool) (mb : Nat) (eb : Int) : Int :=
  scaleTo (min ea eb) na ma ea + scaleTo (min ea eb) nb mb eb

theorem exactAdd_fin (rm : RMode) (na : Bool) (ma : Nat) (ea : Int) (nb : Bool) (mb : Nat) (eb : Int) :
    exactAdd rm (.fin na ma ea) (.fin nb mb eb) =
      if sumUnits na ma ea nb mb eb = 0 then .fin (zeroSumSign rm na nb) 0 0
      else .fin (decide (sumUnits na ma ea nb mb eb < 0)) (sumUnits na ma ea nb mb eb).natAbs (min ea eb) := rfl

theorem sumUnits_mul_zpow (na : Bool) (ma : Nat) (ea : Int) (nb : Bool) (mb : Nat) (eb : Int) :
    (sumUnits na ma ea nb mb eb : ℚ) * 2 ^ min ea eb = signFactor na * ma * 2 ^ ea + signFactor nb * mb * 2 ^ eb := by
  rw [sumUnits, Int.cast_add, add_mul, scaleTo_mul_zpow (min_le_left ..), scaleTo_mul_zpow (min_le_right ..)]

theorem rat_exactAdd {a b : FVal} {x y : ℚ} (rm : RMode) (ha : a.rat = some x) (hb : b.rat = some y) :
    (exactAdd rm a b).rat = some (x + y) := by
  obtain ⟨na, ma, ea, rfl, rfl⟩ := exists_fin_of_rat ha
  obtain ⟨nb, mb, eb, rfl, rfl⟩ := exists_fin_of_rat hb
  rw [exactAdd_fin, ← sumUnits_mul_zpow]
  split
  next h => rw [h, rat_fin, Int.cast_zero, zero_mul, Nat.cast_zero, mul_zero, zero_mul]
  next => exact rat_fin_natAbs _ _

theorem rat_exactSub {a b : FVal} {x y : ℚ} (rm : RMode) (ha : a.rat = some x) (hb : b.rat = some y) :
    (exactSub rm a b).rat = some (x - y) := by
  rw [sub_eq_add_neg]
  exact rat_exactAdd rm ha (rat_neg hb)

theorem rat_exactMul {a b : FVal} {x y : ℚ} (ha : a.rat = some x) (hb : b.rat = some y) :
    (exactMul a b).rat = some (x * y) := by
  obtain ⟨na, ma, ea, rfl, rfl⟩ := exists_fin_of_rat ha
  obtain ⟨nb, mb, eb, rfl, rfl⟩ := exists_fin_of_rat hb
  rw [exactMul, rat_fin, signFactor_bne, Nat.cast_mul, zpow_add₀ two_ne_zero]
  exact congrArg some (by ring)

/-- Two finite values at the smaller of their exponents compare as the numbers do. -/
theorem fLess_iff {a b : FVal} {x y : ℚ} (ha : a.rat = some x) (hb : b.rat = some y) : fLess a b = true ↔ x < y := by
  obtain ⟨na, ma, ea, rfl, rfl⟩ := exists_fin_of_rat ha
  obtain ⟨nb, mb, eb, rfl, rfl⟩ := exists_fin_of_rat hb
  have hunit : (0 : ℚ) < 2 ^ min ea eb := zpow_pos two_pos _
  rw [fLess, decide_eq_true_iff, ← scaleTo_mul_zpow (min_le_left ea eb), ← scaleTo_mul_zpow (min_le_right ea eb),
    mul_lt_mul_iff_left₀ hunit, Int.cast_lt]

theorem fEqual_iff {a b : FVal} {x y : ℚ} (ha : a.rat = some x) (hb : b.rat = some y) : fEqual a b = true ↔ x = y := by
  obtain ⟨na, ma, ea, rfl, rfl⟩ := exists_fin_of_rat ha
  obtain ⟨nb, mb, eb, rfl, rfl⟩ := exists_fin_of_rat hb
  have hunit : (2 : ℚ) ^ min ea eb ≠ 0 := zpow_ne_zero _ two_ne_zero
  rw [fEqual, decide_eq_true_iff, ← scaleTo_mul_zpow (min_le_left ea eb), ← scaleTo_mul_zpow (min_le_right ea eb),
    mul_left_inj' hunit, Int.cast_inj]

/-- An exact sum of zero has no units, and the sign IEEE 754 gives it. -/
theorem exactAdd_of_rat_zero {rm : RMode} {na nb : Bool} {ma mb : Nat} {ea eb : Int}
    (h : (exactAdd rm (.fin na ma ea) (.fin nb mb eb)).rat = some 0) :
    exactAdd rm (.fin na ma ea) (.fin nb mb eb) = .fin (zeroSumSign rm na nb) 0 0 := by
  rw [rat_exactAdd rm rfl rfl, ← signFactor, ← signFactor, ← sumUnits_mul_zpow] at h
  have hsum : sumUnits na ma ea nb mb eb = 0 := Int.cast_eq_zero.mp
    ((mul_eq_zero.mp (Option.some.inj h)).resolve_right (zpow_ne_zero _ two_ne_zero))
  rw [exactAdd_fin, if_pos hsum]

theorem zeroSumSign_eq (rm : RMode) (na nb : Bool) :
    zeroSumSign rm na nb = if na = nb then na else decide (rm = .down) := by
  cases na <;> cases nb <;> cases rm <;> rfl

/-- The sign of an exact zero difference: that of a sum with the second sign turned. -/
theorem zeroSumSign_not (rm : RMode) (na nb : Bool) :
    zeroSumSign rm na (!nb) = if na ≠ nb then na else decide (rm = .down) := by
  cases na <;> cases nb <;> cases rm <;> rfl

/-- Settles O37: the finite cases on the numbers the values stand for, the others by the kinds of the operands. -/
theorem exactArithmetic : Obligations.ExactArithmetic := by
  refine ⟨fun rm a b x y ha hb => ⟨rat_exactAdd rm ha hb, rat_exactSub rm ha hb, rat_exactMul ha hb, fLess_iff ha hb,
    fEqual_iff ha hb⟩, fun rm na nb ma mb ea eb => ⟨fun h => ⟨0, ?_⟩, fun h => ⟨0, ?_⟩, ⟨_, _, rfl⟩, fun i =>
    ⟨rfl, rfl, rfl, rfl, rfl, rfl, rfl, rfl, rfl, rfl⟩⟩, fun rm i j => ?_, fun rm v w hnan => ?_⟩
  · rw [← zeroSumSign_eq]
    exact exactAdd_of_rat_zero h
  · rw [← zeroSumSign_not]
    exact exactAdd_of_rat_zero h
  · cases i <;> cases j <;> exact ⟨rfl, rfl, rfl, rfl, rfl⟩
  · rcases hnan with rfl | rfl
    · exact ⟨rfl, rfl, rfl, rfl, rfl⟩
    · cases v <;> exact ⟨rfl, rfl, rfl, rfl, rfl⟩

/-! ## Rounding to a multiple of a unit (R340) -/

/-- A magnitude that is a multiple of the unit is not rounded up. -/
theorem roundsUp_zero (rm : RMode) (neg odd : Bool) (k : Nat) : roundsUp rm neg odd 0 k = false := by
  have h : 2 ^ k ≠ 0 := NeZero.ne _
  cases rm <;> simp [roundsUp, h.symm]

/-- Toward −∞ a negative magnitude is rounded up, and toward +∞ a positive one, when it is not a multiple of the unit. -/
theorem roundsUp_directed {rm : RMode} {neg odd : Bool} {low k : Nat} (hrm : rm = .down ∨ rm = .up) :
    roundsUp rm neg odd low k = (decide (neg = decide (rm = .down)) && low != 0) := by
  rcases hrm with rfl | rfl
  · cases neg <;> rfl
  · cases neg <;> rfl

/-- To nearest a remainder above half a unit is rounded up, and one of half a unit above an odd multiple. -/
theorem roundsUp_nearest_iff {neg : Bool} {n low k : Nat} : roundsUp .nearest neg (n % 2 == 1) low k = true ↔
    2 ^ k < 2 * low ∨ 2 * low = 2 ^ k ∧ n % 2 = 1 := by
  simp [roundsUp]

/-- Rounding to a unit of 2^k smaller ones: the quotient or the next number, inexact when there is a remainder. -/
theorem roundUnits_add (rm : RMode) (neg : Bool) (m k : Nat) (e : Int) : roundUnits rm neg m e (e + k) =
    (if roundsUp rm neg (m / 2 ^ k % 2 == 1) (m % 2 ^ k) k then m / 2 ^ k + 1 else m / 2 ^ k, m % 2 ^ k != 0) := by
  unfold roundUnits
  by_cases hk : k = 0
  · subst hk
    simp [Nat.mod_one, roundsUp_zero]
  · have hlt : ¬ e + (k : Int) ≤ e := by omega
    have hshift : (e + (k : Int) - e).toNat = k := by omega
    rw [if_neg hlt, hshift]

/-- Nothing is lost in a smaller unit. -/
theorem roundUnits_of_le (rm : RMode) (neg : Bool) (m : Nat) {e q : Int} (h : q ≤ e) :
    roundUnits rm neg m e q = (m * 2 ^ (e - q).toNat, false) := if_pos h

theorem roundUnits_sub (rm : RMode) (neg : Bool) (m k : Nat) (e : Int) : roundUnits rm neg m e (e - k) = (m * 2 ^ k, false) := by
  rw [roundUnits_of_le _ _ _ (by omega), show (e - (e - (k : Int))).toNat = k by omega]

/-- A magnitude as a quotient, whose multiple of the unit is named, and a remainder. -/
theorem exists_units (m k : Nat) : ∃ below low, m / 2 ^ k * 2 ^ k = below ∧ (m / 2 ^ k + 1) * 2 ^ k = below + 2 ^ k ∧
    m % 2 ^ k = low ∧ m = below + low ∧ low < 2 ^ k :=
  ⟨_, _, rfl, Nat.succ_mul .., rfl, (Nat.div_add_mod' m _).symm, Nat.mod_lt _ (Nat.two_pow_pos k)⟩

section
variable (neg : Bool) (m k : Nat) (e : Int)

theorem roundUnits_zero : (roundUnits .zero neg m e (e + k)).1 = m / 2 ^ k := by
  rw [roundUnits_add]
  rfl

/-- Toward −∞ or +∞: the multiple of the unit below or above, by the sign. -/
theorem roundUnits_directed (rm : RMode) (hrm : rm = .down ∨ rm = .up) :
    let value := (roundUnits rm neg m e (e + k)).1 * 2 ^ k
    if neg = decide (rm = .down) then m ≤ value ∧ value < m + 2 ^ k else value ≤ m ∧ m < value + 2 ^ k := by
  obtain ⟨below, low, hbelow, habove, hlow, hm, hlt⟩ := exists_units m k
  rw [roundUnits_add, hlow, roundsUp_directed hrm]
  by_cases hdir : neg = decide (rm = .down)
  · by_cases h0 : low = 0
    · simp only [hdir, h0, hbelow, bne_self_eq_false, Bool.and_false, Bool.false_eq_true, if_false, if_true]
      omega
    · simp only [hdir, bne_iff_ne.mpr h0, habove, decide_true, Bool.and_true, if_true]
      omega
  · simp only [hdir, hbelow, decide_false, Bool.false_and, Bool.false_eq_true, if_false]
    omega

/-- To nearest: no more than half a unit off, and an even number of units when it is half a unit. -/
theorem roundUnits_nearest :
    let n := (roundUnits .nearest neg m e (e + k)).1
    2 * (n * 2 ^ k) ≤ 2 * m + 2 ^ k ∧ 2 * m ≤ 2 * (n * 2 ^ k) + 2 ^ k ∧
      (2 * (n * 2 ^ k) = 2 * m + 2 ^ k ∨ 2 * m = 2 * (n * 2 ^ k) + 2 ^ k → n % 2 = 0) := by
  obtain ⟨below, low, hbelow, habove, hlow, hm, hlt⟩ := exists_units m k
  rw [roundUnits_add, hlow]
  by_cases hup : roundsUp .nearest neg (m / 2 ^ k % 2 == 1) low k = true
  · simp only [if_pos hup, habove]
    rw [roundsUp_nearest_iff] at hup
    omega
  · simp only [if_neg hup, hbelow]
    rw [roundsUp_nearest_iff] at hup
    omega

/-- Rounding goes less than a unit either way, and is inexact when it goes anywhere. -/
theorem roundUnits_near (rm : RMode) :
    let r := roundUnits rm neg m e (e + k)
    r.1 * 2 ^ k < m + 2 ^ k ∧ m < r.1 * 2 ^ k + 2 ^ k ∧ (r.2 = true ↔ r.1 * 2 ^ k ≠ m) := by
  obtain ⟨below, low, hbelow, habove, hlow, hm, hlt⟩ := exists_units m k
  rw [roundUnits_add, hlow]
  by_cases h0 : low = 0
  · simp only [h0, roundsUp_zero, Bool.false_eq_true, if_false, hbelow, bne_self_eq_false, false_iff]
    omega
  · dsimp only
    rw [bne_iff_ne]
    split <;> simp only [hbelow, habove] <;> omega

end

/-! ## The numbers rounded -/

/-- The number of a count of units, against the magnitude rounded: less than a unit off, and equal when it is exact. -/
theorem roundUnits_rat (rm : RMode) (neg : Bool) (m : Nat) (e q : Int) :
    let r := roundUnits rm neg m e q
    (r.1 : ℚ) * 2 ^ q < m * 2 ^ e + 2 ^ q ∧ (m : ℚ) * 2 ^ e < r.1 * 2 ^ q + 2 ^ q ∧
      (r.2 = true ↔ (r.1 : ℚ) * 2 ^ q ≠ m * 2 ^ e) := by
  have hunit : (0 : ℚ) < 2 ^ q := zpow_pos two_pos _
  by_cases h : q ≤ e
  · rw [roundUnits_of_le rm neg m h]
    dsimp only
    rw [cast_mul_two_pow_toNat m h]
    exact ⟨lt_add_of_pos_right _ hunit, lt_add_of_pos_right _ hunit, by simp⟩
  · obtain ⟨k, rfl⟩ : ∃ k : Nat, q = e + k := ⟨(q - e).toNat, by omega⟩
    obtain ⟨hup, hdown, hexact⟩ := roundUnits_near neg m k e rm
    generalize roundUnits rm neg m e (e + k) = r at hup hdown hexact ⊢
    have hpos : (0 : ℚ) < 2 ^ e := zpow_pos two_pos _
    have hscale : ∀ n : Nat, (n : ℚ) * 2 ^ (e + k : Int) = ((n * 2 ^ k : Nat) : ℚ) * 2 ^ e := fun n => by
      rw [zpow_add₀ two_ne_zero, zpow_natCast, Nat.cast_mul, Nat.cast_pow, Nat.cast_ofNat]
      ring
    have hone : (2 : ℚ) ^ (e + k : Int) = ((2 ^ k : Nat) : ℚ) * 2 ^ e := by simpa using hscale 1
    dsimp only
    rw [hscale, hone, ← add_mul, ← add_mul, mul_lt_mul_iff_left₀ hpos, mul_lt_mul_iff_left₀ hpos, ← Nat.cast_add,
      ← Nat.cast_add, Nat.cast_lt, Nat.cast_lt, Ne, mul_left_inj' hpos.ne', Nat.cast_inj]
    exact ⟨hup, hdown, hexact⟩

/-- A magnitude no greater than a number of units rounds to no more of them. -/
theorem roundUnits_le {rm : RMode} {neg : Bool} {m : Nat} {e q : Int} {n : Nat} (h : (m : ℚ) * 2 ^ e ≤ n * 2 ^ q) :
    (roundUnits rm neg m e q).1 ≤ n := by
  have hunit : (0 : ℚ) < 2 ^ q := zpow_pos two_pos _
  have hlt : ((roundUnits rm neg m e q).1 : ℚ) * 2 ^ q < (n + 1 : Nat) * 2 ^ q := by
    push_cast
    linarith [(roundUnits_rat rm neg m e q).1]
  exact Nat.lt_succ_iff.mp (Nat.cast_lt.mp ((mul_lt_mul_iff_left₀ hunit).mp hlt))

/-- A magnitude no less than a number of units rounds to no fewer of them. -/
theorem le_roundUnits {rm : RMode} {neg : Bool} {m : Nat} {e q : Int} {n : Nat} (h : (n : ℚ) * 2 ^ q ≤ m * 2 ^ e) :
    n ≤ (roundUnits rm neg m e q).1 := by
  have hunit : (0 : ℚ) < 2 ^ q := zpow_pos two_pos _
  have hlt : (n : ℚ) * 2 ^ q < ((roundUnits rm neg m e q).1 + 1 : Nat) * 2 ^ q := by
    push_cast
    linarith [(roundUnits_rat rm neg m e q).2.1]
  exact Nat.lt_succ_iff.mp (Nat.cast_lt.mp ((mul_lt_mul_iff_left₀ hunit).mp hlt))

/-! ## Patterns and their fields (R14) -/

theorem expTop_eq (p : Prec) : expTop p = 2 * expBias p + 1 := by cases p <;> rfl

theorem expTop_lt (p : Prec) : expTop p < 2 ^ expBits p := Nat.sub_lt (Nat.two_pow_pos _) one_pos

/-- The bits of a pattern above its fraction, and above its exponent. -/
theorem two_pow_width (p : Prec) : 2 ^ (expBits p + sigBits p - 1) = 2 ^ (sigBits p - 1) * 2 ^ expBits p := by
  cases p <;> rfl

theorem fracField_eq (p : Prec) (v : Dword) : fracField p v = v.toNat % 2 ^ (sigBits p - 1) := by
  cases p <;> simp [fracField, sigBits]

theorem expField_eq (p : Prec) (v : Dword) : expField p v = v.toNat / 2 ^ (sigBits p - 1) % 2 ^ expBits p := by
  cases p <;> simp [expField, sigBits, expBits, Nat.shiftRight_eq_div_pow]

theorem signOf_eq (p : Prec) (v : Dword) :
    signOf p v = decide (v.toNat / (2 ^ (sigBits p - 1) * 2 ^ expBits p) % 2 = 1) := by
  cases p <;> exact Nat.testBit_eq_decide_div_mod_eq

/-- A pattern as a number: fraction, exponent and sign one above the other. -/
theorem toNat_packFields {p : Prec} (neg : Bool) {expo frac : Nat} (he : expo < 2 ^ expBits p)
    (hf : frac < 2 ^ (sigBits p - 1)) : (packFields p neg expo frac).toNat =
      frac + 2 ^ (sigBits p - 1) * (expo + 2 ^ expBits p * neg.toNat) := by
  have hsign : (if neg then 2 ^ (expBits p + sigBits p - 1) else 0) = 2 ^ (sigBits p - 1) * 2 ^ expBits p * neg.toNat := by
    cases neg <;> simp [two_pow_width]
  have hexpo : expo + 2 ^ expBits p * neg.toNat < 2 ^ expBits p * 2 := by
    have := Nat.mul_le_mul_left (2 ^ expBits p) (Bool.toNat_le neg)
    omega
  have hbound : 2 ^ (sigBits p - 1) * (2 ^ expBits p * 2) ≤ 2 ^ 64 := by cases p <;> decide
  have hlt : frac + 2 ^ (sigBits p - 1) * (expo + 2 ^ expBits p * neg.toNat) < 2 ^ 64 := by
    have := Nat.mul_le_mul_left (2 ^ (sigBits p - 1)) (Nat.succ_le_of_lt hexpo)
    rw [Nat.mul_succ] at this
    omega
  unfold packFields
  rw [BitVec.toNat_ofNat, hsign, ← Nat.mod_eq_of_lt hlt]
  congr 1
  ring

section
variable {p : Prec} (neg : Bool) {expo frac : Nat} (he : expo < 2 ^ expBits p) (hf : frac < 2 ^ (sigBits p - 1))
include he hf

theorem fracField_packFields : fracField p (packFields p neg expo frac) = frac := by
  rw [fracField_eq, toNat_packFields neg he hf, Nat.add_mul_mod_self_left, Nat.mod_eq_of_lt hf]

theorem expField_packFields : expField p (packFields p neg expo frac) = expo := by
  rw [expField_eq, toNat_packFields neg he hf, Nat.add_mul_div_left _ _ (Nat.two_pow_pos _), Nat.div_eq_of_lt hf, Nat.zero_add,
    Nat.add_mul_mod_self_left, Nat.mod_eq_of_lt he]

theorem signOf_packFields : signOf p (packFields p neg expo frac) = neg := by
  rw [signOf_eq, toNat_packFields neg he hf, ← Nat.div_div_eq_div_mul, Nat.add_mul_div_left _ _ (Nat.two_pow_pos _),
    Nat.div_eq_of_lt hf, Nat.zero_add, Nat.add_mul_div_left _ _ (Nat.two_pow_pos _), Nat.div_eq_of_lt he, Nat.zero_add]
  cases neg <;> rfl

end

/-- The value of an entry is its pattern, with nothing above it. -/
theorem toNat_entryOf (p : Prec) (v : Dword) :
    (entryOf p v).value.toNat = v.toNat % (2 ^ (sigBits p - 1) * 2 ^ expBits p * 2) := by
  cases p with
  | single =>
    show ((v.extractLsb' 0 32).setWidth 64).toNat = v.toNat % 2 ^ 32
    rw [BitVec.toNat_setWidth_of_le (by decide), BitVec.extractLsb'_toNat, Nat.shiftRight_zero]
  | double => exact (Nat.mod_eq_of_lt v.isLt).symm

/-- A pattern is what its fields pack to. -/
theorem packFields_fields (p : Prec) (v : Dword) :
    packFields p (signOf p v) (expField p v) (fracField p v) = (entryOf p v).value := by
  have hf : fracField p v < 2 ^ (sigBits p - 1) := fracField_eq p v ▸ Nat.mod_lt _ (Nat.two_pow_pos _)
  have he : expField p v < 2 ^ expBits p := expField_eq p v ▸ Nat.mod_lt _ (Nat.two_pow_pos _)
  have hsign : (signOf p v).toNat = v.toNat / (2 ^ (sigBits p - 1) * 2 ^ expBits p) % 2 := by
    rw [signOf_eq]
    rcases Nat.mod_two_eq_zero_or_one (v.toNat / (2 ^ (sigBits p - 1) * 2 ^ expBits p)) with h | h <;> rw [h] <;> rfl
  apply BitVec.eq_of_toNat_eq
  rw [toNat_packFields _ he hf, toNat_entryOf, hsign, Nat.mod_mul, Nat.mod_mul, fracField_eq, expField_eq]
  ring

/-! ## Values of patterns (R14) -/

/-- A number of units of 2^q as a pattern of a precision holds it: at most the significand's bits, and as many as that unless the
unit is that of the denormals. -/
structure Canonical (p : Prec) (n : Nat) (q : Int) : Prop where
  lt : n < 2 ^ sigBits p
  unit_le : expMin p - (sigBits p - 1 : Nat) ≤ q
  denormal : n < 2 ^ (sigBits p - 1) → q = expMin p - (sigBits p - 1 : Nat)

theorem two_pow_sigBits (p : Prec) : 2 ^ sigBits p = 2 * 2 ^ (sigBits p - 1) := by cases p <;> rfl

section
variable {p : Prec} {n : Nat} {q : Int}

theorem fieldOfUnits_of_lt (hlow : n < 2 ^ (sigBits p - 1)) : fieldOfUnits p n q = 0 := if_pos hlow

/-- The exponent field of a normal value. -/
theorem Canonical.fieldOfUnits_of_le (h : Canonical p n q) (hlow : 2 ^ (sigBits p - 1) ≤ n) :
    (fieldOfUnits p n q : Int) = q + (sigBits p - 1 : Nat) + expBias p ∧ 0 < fieldOfUnits p n q := by
  have hunit := h.unit_le
  unfold fieldOfUnits expMin at *
  rw [if_neg (not_lt.mpr hlow), if_pos h.lt]
  omega

/-- The pattern of a canonical value in range has the value. -/
theorem Canonical.fval_packFields (h : Canonical p n q) (neg : Bool) (hfield : fieldOfUnits p n q < expTop p) :
    fval p (packFields p neg (fieldOfUnits p n q) (n % 2 ^ (sigBits p - 1))) = .fin neg n q := by
  have he := hfield.trans (expTop_lt p)
  have hf : n % 2 ^ (sigBits p - 1) < 2 ^ (sigBits p - 1) := Nat.mod_lt _ (Nat.two_pow_pos _)
  have hsig := two_pow_sigBits p
  have hlt := h.lt
  unfold fval
  rw [expField_packFields neg he hf, fracField_packFields neg he hf, signOf_packFields neg he hf, if_neg hfield.ne]
  by_cases hlow : n < 2 ^ (sigBits p - 1)
  · rw [if_pos (fieldOfUnits_of_lt hlow), Nat.mod_eq_of_lt hlow, h.denormal hlow]
  · obtain ⟨hexpo, hpos⟩ := h.fieldOfUnits_of_le (not_lt.mp hlow)
    have hmod : n % 2 ^ (sigBits p - 1) = n - 2 ^ (sigBits p - 1) := by
      rw [Nat.mod_eq_sub_mod (not_lt.mp hlow), Nat.mod_eq_of_lt (by omega)]
    rw [if_neg hpos.ne', hexpo, hmod, Nat.add_sub_cancel' (not_lt.mp hlow)]
    congr 1
    omega

/-- The fields of a finite pattern are those of its value. -/
theorem canonical_of_fval {v : Dword} {neg : Bool} (h : fval p v = .fin neg n q) :
    Canonical p n q ∧ expField p v = fieldOfUnits p n q ∧ fracField p v = n % 2 ^ (sigBits p - 1) ∧ signOf p v = neg ∧
      expField p v < expTop p := by
  have hf : fracField p v < 2 ^ (sigBits p - 1) := fracField_eq p v ▸ Nat.mod_lt _ (Nat.two_pow_pos _)
  have he : expField p v < 2 ^ expBits p := expField_eq p v ▸ Nat.mod_lt _ (Nat.two_pow_pos _)
  have htop : expTop p = 2 ^ expBits p - 1 := rfl
  have hsig := two_pow_sigBits p
  unfold fval at h
  split at h
  next => split at h <;> cases h
  next hnottop =>
    split at h
    next hzero =>
      obtain ⟨rfl, rfl, rfl⟩ := FVal.fin.inj h
      exact ⟨⟨by omega, le_rfl, fun _ => rfl⟩, hzero.trans (fieldOfUnits_of_lt hf).symm, (Nat.mod_eq_of_lt hf).symm, rfl,
        by omega⟩
    next hzero =>
      obtain ⟨rfl, rfl, rfl⟩ := FVal.fin.inj h
      have hc : Canonical p (2 ^ (sigBits p - 1) + fracField p v) (expField p v - expBias p - (sigBits p - 1 : Nat)) :=
        ⟨by omega, by unfold expMin; omega, fun hlow => absurd hlow (by omega)⟩
      refine ⟨hc, ?_, ?_, rfl, by omega⟩
      · have := (hc.fieldOfUnits_of_le (Nat.le_add_right ..)).1
        omega
      · rw [Nat.add_mod_left, Nat.mod_eq_of_lt hf]

end

theorem fval_infBits (p : Prec) (neg : Bool) : fval p (infBits p neg) = .inf neg := by
  have hf : 0 < 2 ^ (sigBits p - 1) := Nat.two_pow_pos _
  unfold fval infBits
  rw [expField_packFields neg (expTop_lt p) hf, fracField_packFields neg (expTop_lt p) hf,
    signOf_packFields neg (expTop_lt p) hf, if_pos rfl, if_pos rfl]

/-- The fraction of NAN_RESULT is not zero. -/
theorem fval_nanBits (p : Prec) (free : Dword) : fval p (nanBits p free) = .nan := by
  have hone : 1 < 2 ^ (sigBits p - 1) := by cases p <;> decide
  have hfree : fracField p free < 2 ^ (sigBits p - 1) := fracField_eq p free ▸ Nat.mod_lt _ (Nat.two_pow_pos _)
  have hf : (if fracField p free = 0 then 1 else fracField p free) < 2 ^ (sigBits p - 1) := by split <;> assumption
  unfold fval nanBits
  rw [expField_packFields _ (expTop_lt p) hf, fracField_packFields _ (expTop_lt p) hf, if_pos rfl]
  exact if_neg (by split <;> omega)

theorem signOf_zeroBits (p : Prec) (neg : Bool) : signOf p (zeroBits p neg) = neg :=
  signOf_packFields neg (Nat.two_pow_pos _) (Nat.two_pow_pos _)

theorem rat_zeroBits (p : Prec) (neg : Bool) : (fval p (zeroBits p neg)).rat = some 0 := by
  have hzero : Canonical p 0 (expMin p - (sigBits p - 1 : Nat)) := ⟨Nat.two_pow_pos _, le_rfl, fun _ => rfl⟩
  have hfield : fieldOfUnits p 0 (expMin p - (sigBits p - 1 : Nat)) = 0 := fieldOfUnits_of_lt (Nat.two_pow_pos _)
  have hval := hzero.fval_packFields neg (by rw [hfield, expTop_eq]; omega)
  rw [hfield, Nat.zero_mod] at hval
  rw [zeroBits, hval, rat_fin, Nat.cast_zero, mul_zero, zero_mul]

/-- The largest finite value: all the significand's bits, at the largest exponent. -/
theorem fval_maxBits (p : Prec) (neg : Bool) :
    fval p (maxBits p neg) = .fin neg (2 ^ sigBits p - 1) ((expBias p : Int) - (sigBits p - 1 : Nat)) := by
  have hsig := two_pow_sigBits p
  have hpos : 0 < 2 ^ (sigBits p - 1) := Nat.two_pow_pos _
  have hbias : 0 < expBias p := by cases p <;> decide
  have hc : Canonical p (2 ^ sigBits p - 1) ((expBias p : Int) - (sigBits p - 1 : Nat)) :=
    ⟨by omega, by unfold expMin; omega, fun hlow => absurd hlow (by omega)⟩
  have hfield : fieldOfUnits p (2 ^ sigBits p - 1) ((expBias p : Int) - (sigBits p - 1 : Nat)) = expTop p - 1 := by
    have := (hc.fieldOfUnits_of_le (by omega)).1
    have := expTop_eq p
    omega
  have hfrac : (2 ^ sigBits p - 1) % 2 ^ (sigBits p - 1) = 2 ^ (sigBits p - 1) - 1 := by
    rw [Nat.mod_eq_sub_mod (by omega), Nat.mod_eq_of_lt (by omega)]
    omega
  have hval := hc.fval_packFields neg (by rw [hfield, expTop_eq]; omega)
  rwa [hfield, hfrac] at hval

/-- An overflow is the infinity, or the largest finite value where the direction leads away from it (R341). -/
theorem fval_overflowBits (p : Prec) (rm : RMode) (neg : Bool) : fval p (overflowBits p rm neg) =
    if rm = .nearest ∨ rm = (if neg then .down else .up) then .inf neg
    else .fin neg (2 ^ sigBits p - 1) ((expBias p : Int) - (sigBits p - 1 : Nat)) := by
  cases rm <;> cases neg <;> simp [overflowBits, fval_infBits, fval_maxBits]

theorem signOf_overflowBits (p : Prec) (rm : RMode) (neg : Bool) : signOf p (overflowBits p rm neg) = neg := by
  have hinf : signOf p (infBits p neg) = neg := signOf_packFields neg (expTop_lt p) (Nat.two_pow_pos _)
  have hmax : signOf p (maxBits p neg) = neg :=
    signOf_packFields neg ((Nat.sub_le ..).trans_lt (expTop_lt p)) (Nat.sub_lt (Nat.two_pow_pos _) one_pos)
  cases rm <;> cases neg <;> assumption

/-! ## Rounding to a precision (R14, R340, R341) -/

/-- The largest finite value of a precision. -/
def largestFinite (p : Prec) : ℚ := (2 ^ sigBits p - 1) * 2 ^ ((expBias p : Int) - (sigBits p - 1 : Nat))

theorem rat_largestFinite (p : Prec) (neg : Bool) :
    (FVal.fin neg (2 ^ sigBits p - 1) ((expBias p : Int) - (sigBits p - 1 : Nat))).rat =
      some (signFactor neg * largestFinite p) := by
  rw [rat_fin, Nat.cast_sub Nat.one_le_two_pow, Nat.cast_pow, Nat.cast_ofNat, Nat.cast_one, mul_assoc, largestFinite]

/-- 2^sigBits units of the largest exponent, just above the largest finite value. -/
theorem largestFinite_lt (p : Prec) :
    largestFinite p < 2 ^ sigBits p * 2 ^ ((expBias p : Int) - (sigBits p - 1 : Nat)) :=
  mul_lt_mul_of_pos_right (sub_one_lt _) (zpow_pos two_pos _)

section
variable {p : Prec} {n : Nat} {q : Int}

/-- A canonical value has no exponent field in range exactly when it exceeds the largest finite value. -/
theorem Canonical.expTop_le_iff (h : Canonical p n q) : expTop p ≤ fieldOfUnits p n q ↔ largestFinite p < n * 2 ^ q := by
  have htop := expTop_eq p
  have hbias : 1 ≤ expBias p := by cases p <;> decide
  by_cases hin : fieldOfUnits p n q < expTop p
  · have hq : q ≤ (expBias p : Int) - (sigBits p - 1 : Nat) := by
      by_cases hlow : n < 2 ^ (sigBits p - 1)
      · have := h.denormal hlow
        unfold expMin at this
        omega
      · have := (h.fieldOfUnits_of_le (not_lt.mp hlow)).1
        omega
    have hn : (n : ℚ) ≤ 2 ^ sigBits p - 1 := by
      have : ((n + 1 : Nat) : ℚ) ≤ (2 ^ sigBits p : Nat) := Nat.cast_le.mpr h.lt
      push_cast at this
      linarith
    have hle : (n : ℚ) * 2 ^ q ≤ largestFinite p :=
      mul_le_mul hn (zpow_le_zpow_right₀ one_le_two hq) (zpow_pos two_pos _).le ((Nat.cast_nonneg n).trans hn)
    exact iff_of_false (not_le.mpr hin) (not_lt.mpr hle)
  · have hlow : 2 ^ (sigBits p - 1) ≤ n := not_lt.mp fun hlow => hin (by rw [fieldOfUnits_of_lt hlow]; omega)
    have hq : (expBias p : Int) - (sigBits p - 1 : Nat) + 1 ≤ q := by
      have := (h.fieldOfUnits_of_le hlow).1
      omega
    refine iff_of_true (not_lt.mp hin) ((largestFinite_lt p).trans_le ?_)
    have hn : (2 : ℚ) ^ (sigBits p - 1) ≤ n := by exact_mod_cast hlow
    calc (2 : ℚ) ^ sigBits p * 2 ^ ((expBias p : Int) - (sigBits p - 1 : Nat))
        = 2 ^ (sigBits p - 1) * 2 ^ ((expBias p : Int) - (sigBits p - 1 : Nat) + 1) := by
          rw [zpow_add_one₀ two_ne_zero, show (2 : ℚ) ^ sigBits p = 2 * 2 ^ (sigBits p - 1) by exact_mod_cast two_pow_sigBits p]
          ring
      _ ≤ n * 2 ^ q := mul_le_mul hn (zpow_le_zpow_right₀ one_le_two hq) (zpow_pos two_pos _).le (Nat.cast_nonneg n)

/-- A result of rounding, at most 2^sigBits units, is canonical or is so once 2^sigBits units are written as half as many of the
double unit; the fields are those of the canonical form. -/
theorem exists_canonical (hn : n ≤ 2 ^ sigBits p) (hunit : expMin p - (sigBits p - 1 : Nat) ≤ q)
    (hdenormal : n < 2 ^ (sigBits p - 1) → q = expMin p - (sigBits p - 1 : Nat)) :
    ∃ n' q', Canonical p n' q' ∧ (n' : ℚ) * 2 ^ q' = n * 2 ^ q ∧ fieldOfUnits p n q = fieldOfUnits p n' q' ∧
      n % 2 ^ (sigBits p - 1) = n' % 2 ^ (sigBits p - 1) := by
  have hsig := two_pow_sigBits p
  have hpos : 0 < 2 ^ (sigBits p - 1) := Nat.two_pow_pos _
  rcases hn.lt_or_eq with hlt | rfl
  · exact ⟨n, q, ⟨hlt, hunit, hdenormal⟩, rfl, rfl, rfl⟩
  · refine ⟨2 ^ (sigBits p - 1), q + 1, ⟨by omega, by omega, fun h => absurd h (lt_irrefl _)⟩, ?_, ?_, ?_⟩
    · rw [zpow_add_one₀ two_ne_zero, hsig]
      push_cast
      ring
    · unfold fieldOfUnits
      rw [if_neg (by omega), if_neg (by omega), if_neg (lt_irrefl _), if_pos (by omega), add_zero]
    · rw [hsig, Nat.mul_mod_left, Nat.mod_self]

end

/-- The exponent of a magnitude's leading bit. -/
theorem log2_add_eq {m : Nat} {e lead : Int} (hlow : (2 : ℚ) ^ lead ≤ m * 2 ^ e) (hhigh : (m : ℚ) * 2 ^ e < 2 ^ (lead + 1)) :
    m ≠ 0 ∧ (m.log2 : Int) + e = lead := by
  have hm : m ≠ 0 := by
    rintro rfl
    exact absurd hlow (by simp [zpow_pos])
  have hpos : (0 : ℚ) < 2 ^ e := zpow_pos two_pos _
  have hlow' : (2 : ℚ) ^ ((m.log2 : Int) + e) ≤ m * 2 ^ e := by
    rw [zpow_add₀ two_ne_zero, zpow_natCast]
    exact mul_le_mul_of_nonneg_right (by exact_mod_cast Nat.log2_self_le hm) hpos.le
  have hhigh' : (m : ℚ) * 2 ^ e < 2 ^ ((m.log2 : Int) + e + 1) := by
    rw [add_right_comm, zpow_add₀ two_ne_zero, ← Nat.cast_succ, zpow_natCast]
    exact mul_lt_mul_of_pos_right (by exact_mod_cast Nat.lt_log2_self) hpos
  have h1 := (zpow_lt_zpow_iff_right₀ one_lt_two).mp (hlow.trans_lt hhigh')
  have h2 := (zpow_lt_zpow_iff_right₀ one_lt_two).mp (hlow'.trans_lt hhigh)
  exact ⟨hm, by omega⟩

/-- The unit of a magnitude is that of its leading bit, or of the least normal value. -/
theorem unitExp_eq_max (p : Prec) {m : Nat} {e lead : Int} (h : (m.log2 : Int) + e = lead) :
    unitExp p m e = max lead (expMin p) - (sigBits p - 1 : Nat) := by
  unfold unitExp
  rw [h]
  split <;> congr 1 <;> omega

/-- Rounding a nonzero magnitude: an overflow, or the pattern of the units it rounds to. -/
theorem roundFinite_of_ne_zero (p : Prec) (rm : RMode) (neg : Bool) {m : Nat} (e : Int) (hm : m ≠ 0) :
    let r := roundUnits rm neg m e (unitExp p m e)
    let tiny := decide ((m.log2 : Int) + e < expMin p)
    roundFinite p rm neg m e =
      if expTop p ≤ fieldOfUnits p r.1 (unitExp p m e) then
        { bits := overflowBits p rm neg, overflow := true, tiny := tiny, inexact := true }
      else
        { bits := packFields p neg (fieldOfUnits p r.1 (unitExp p m e)) (r.1 % 2 ^ (sigBits p - 1))
          overflow := false, tiny := tiny, inexact := r.2 } := if_neg hm

theorem roundFinite_zero (p : Prec) (rm : RMode) (neg : Bool) (e : Int) :
    roundFinite p rm neg 0 e = { bits := zeroBits p neg, overflow := false, tiny := false, inexact := false } := if_pos rfl

section
variable (p : Prec) (rm : RMode) (neg : Bool) {m : Nat} {e lead : Int} (hlow : (2 : ℚ) ^ lead ≤ m * 2 ^ e)
  (hhigh : (m : ℚ) * 2 ^ e < 2 ^ (lead + 1))
include hlow hhigh

/-- The units a magnitude rounds to at the unit of a precision have a canonical form. -/
theorem exists_canonical_roundUnits :
    let unit : Int := max lead (expMin p) - (sigBits p - 1 : Nat)
    let n := (roundUnits rm neg m e unit).1
    ∃ n' q', Canonical p n' q' ∧ (n' : ℚ) * 2 ^ q' = n * 2 ^ unit ∧ fieldOfUnits p n unit = fieldOfUnits p n' q' ∧
      n % 2 ^ (sigBits p - 1) = n' % 2 ^ (sigBits p - 1) := by
  refine exists_canonical (roundUnits_le ?_) (by omega) fun hn => ?_
  · have hexp : (sigBits p : Int) + (max lead (expMin p) - (sigBits p - 1 : Nat)) = max lead (expMin p) + 1 := by
      have : 1 ≤ sigBits p := by cases p <;> decide
      omega
    rw [Nat.cast_pow, Nat.cast_ofNat, ← zpow_natCast, ← zpow_add₀ two_ne_zero, hexp]
    exact hhigh.le.trans (zpow_le_zpow_right₀ one_le_two (by omega))
  · by_contra hne
    refine absurd (le_roundUnits (rm := rm) (neg := neg) ?_) (not_le.mpr hn)
    have hlead : ((sigBits p - 1 : Nat) : Int) + (max lead (expMin p) - (sigBits p - 1 : Nat)) = lead := by omega
    rw [Nat.cast_pow, Nat.cast_ofNat, ← zpow_natCast, ← zpow_add₀ two_ne_zero, hlead]
    exact hlow

/-- A magnitude is below the normal range when its leading bit is. -/
theorem lt_expMin_iff : lead < expMin p ↔ (m : ℚ) * 2 ^ e < 2 ^ expMin p := by
  refine ⟨fun h => hhigh.trans_le (zpow_le_zpow_right₀ one_le_two (by omega)), fun h => ?_⟩
  exact (zpow_lt_zpow_iff_right₀ one_lt_two).mp (hlow.trans_lt h)

/-- What rounding to a precision answers: the sign, the three conditions, and the value. -/
theorem roundFinite_spec :
    let r := roundFinite p rm neg m e
    let unit : Int := max lead (expMin p) - (sigBits p - 1 : Nat)
    let n := (roundUnits rm neg m e unit).1
    signOf p r.bits = neg ∧
      (r.overflow = true ↔ largestFinite p < n * 2 ^ unit) ∧ (r.tiny = true ↔ (m : ℚ) * 2 ^ e < 2 ^ expMin p) ∧
      (r.inexact = true ↔ r.overflow = true ∨ (n : ℚ) * 2 ^ unit ≠ m * 2 ^ e) ∧
      (r.overflow = false → (fval p r.bits).rat = some (signFactor neg * n * 2 ^ unit)) ∧
      (r.overflow = true → r.bits = overflowBits p rm neg) := by
  obtain ⟨hm, hlead⟩ := log2_add_eq hlow hhigh
  obtain ⟨n, q, hc, hvalue, hfield, hfrac⟩ := exists_canonical_roundUnits p rm neg hlow hhigh
  have hinexact := (roundUnits_rat rm neg m e (max lead (expMin p) - (sigBits p - 1 : Nat))).2.2
  have htiny := lt_expMin_iff p hlow hhigh
  dsimp only
  rw [roundFinite_of_ne_zero p rm neg e hm, unitExp_eq_max p hlead, hlead, hfield, hfrac, mul_assoc, ← hvalue]
  rw [← hvalue] at hinexact
  by_cases hover : expTop p ≤ fieldOfUnits p n q
  · rw [if_pos hover]
    have hlarge := hc.expTop_le_iff.mp hover
    exact ⟨signOf_overflowBits p rm neg, iff_of_true rfl hlarge, decide_eq_true_iff.trans htiny, iff_of_true rfl (.inl rfl),
      fun h => absurd h.symm Bool.false_ne_true, fun _ => rfl⟩
  · rw [if_neg hover]
    have hval := hc.fval_packFields neg (not_le.mp hover)
    have hsign := signOf_packFields neg ((not_le.mp hover).trans (expTop_lt p)) (Nat.mod_lt n (Nat.two_pow_pos (sigBits p - 1)))
    refine ⟨hsign, iff_of_false Bool.false_ne_true fun h => hover (hc.expTop_le_iff.mpr h), decide_eq_true_iff.trans htiny,
      hinexact.trans (by simp), fun _ => ?_, fun h => absurd h Bool.false_ne_true⟩
    dsimp only
    rw [hval, rat_fin, mul_assoc]

end

/-- The leading bit of a canonical value: at its unit when it is normal, below when it is denormal. -/
theorem Canonical.unitExp_eq {p : Prec} {n : Nat} {q : Int} (h : Canonical p n q) (hn : n ≠ 0) :
    unitExp p n q = q ∧ ((n.log2 : Int) + q < expMin p ↔ n < 2 ^ (sigBits p - 1)) := by
  have hunit := h.unit_le
  have hlt := (Nat.log2_lt hn).mpr h.lt
  have hlow := Nat.log2_lt (k := sigBits p - 1) hn
  rw [unitExp_eq_max p rfl]
  by_cases hd : n < 2 ^ (sigBits p - 1)
  · have := hlow.mpr hd
    have := h.denormal hd
    exact ⟨by omega, iff_of_true (by omega) hd⟩
  · have := fun hl => hd (hlow.mp hl)
    exact ⟨by omega, iff_of_false (by omega) hd⟩

/-- A value that has a pattern comes back as that pattern. -/
theorem roundFinite_of_fval {p : Prec} {v : Dword} {neg : Bool} {m : Nat} {e : Int} (rm : RMode) (h : fval p v = .fin neg m e) :
    roundFinite p rm neg m e =
      { bits := (entryOf p v).value, overflow := false, tiny := expField p v == 0 && fracField p v != 0, inexact := false } := by
  obtain ⟨hc, hexpo, hfrac, hsign, htop⟩ := canonical_of_fval h
  rw [← packFields_fields, hsign, hexpo, hfrac]
  by_cases hm : m = 0
  · subst hm
    rw [roundFinite_zero, fieldOfUnits_of_lt (Nat.two_pow_pos _), Nat.zero_mod]
    rfl
  · obtain ⟨hunit, htiny⟩ := hc.unitExp_eq hm
    have hunits : roundUnits rm neg m e e = (m, false) := by
      rw [roundUnits_of_le rm neg m le_rfl, sub_self, Int.toNat_zero, pow_zero, mul_one]
    rw [roundFinite_of_ne_zero p rm neg e hm, hunit, hunits, if_neg (not_le.mpr (hexpo ▸ htop))]
    congr 1
    simp only [htiny]
    by_cases hd : m < 2 ^ (sigBits p - 1)
    · simp [fieldOfUnits_of_lt hd, Nat.mod_eq_of_lt hd, hd, hm]
    · have hpos := (hc.fieldOfUnits_of_le (not_lt.mp hd)).2
      simp [hd, hpos.ne']

/-- Flush-to-zero of a tiny result (R341). -/
theorem flushed_of_tiny (p : Prec) {r : Rounded} (h : r.tiny = true) :
    flushed p true r = { r with bits := zeroBits p (signOf p r.bits), inexact := true } := by
  unfold flushed
  rw [h]
  rfl

theorem flushed_of_not_tiny (p : Prec) (fz : Bool) {r : Rounded} (h : r.tiny = false) : flushed p fz r = r := by
  unfold flushed
  rw [h]
  rfl

theorem flushed_of_keep (p : Prec) (r : Rounded) : flushed p false r = r := by
  unfold flushed
  rw [Bool.and_false]
  rfl

/-- Settles O36: rounding to a unit, rounding to a precision, and the results that rounding leaves as they are. -/
theorem roundingDirections : Obligations.RoundingDirections := by
  refine ⟨fun neg m k e => ?_, fun p rm neg m e lead hlow hhigh => ?_, fun p rm free =>
    ⟨fun v neg m e h => roundFinite_of_fval rm h, fun neg e => ?_, fun neg m e => rfl, fval_nanBits p free, rfl,
      fun neg => ⟨fval_infBits p neg, rfl⟩, fun r => ⟨fun h => ?_, flushed_of_not_tiny p true, flushed_of_keep p r⟩⟩⟩
  · obtain ⟨hbelow, habove, heven⟩ := roundUnits_nearest neg m k e
    refine ⟨roundUnits_zero neg m k e, ?_, ?_, hbelow, habove, heven, fun rm =>
      ⟨(roundUnits_near neg m k e rm).2.2, roundUnits_sub rm neg m k e⟩⟩
    · simpa using roundUnits_directed neg m k e .down (.inl rfl)
    · have := roundUnits_directed neg m k e .up (.inr rfl)
      cases neg <;> simpa using this
  · obtain ⟨hsign, hoverflow, htiny, hinexact, hvalue, hover⟩ := roundFinite_spec p rm neg hlow hhigh
    refine ⟨hsign, hoverflow, htiny, hinexact, hvalue, fun h => ?_⟩
    have hval := fval_overflowBits p rm neg
    rw [hover h]
    by_cases hinf : rm = .nearest ∨ rm = (if neg then .down else .up)
    · rw [if_pos hinf] at hval ⊢
      exact hval
    · rw [if_neg hinf] at hval ⊢
      rw [hval]
      exact rat_largestFinite p neg
  · rw [roundFinite_zero]
    exact ⟨rat_zeroBits p neg, signOf_zeroBits p neg, rfl⟩
  · rw [flushed_of_tiny p h]
    exact ⟨rat_zeroBits p _, signOf_zeroBits p _, rfl⟩

/-! ## FPCheck (R341) -/

/-- Settles O38: a check that goes on is `fpCheck_of_passes`; one that traps has recorded SE alone or the whole status. -/
theorem fpCheckStatusAndTraps : Obligations.FpCheckStatusAndTraps := by
  intro unit x p s
  refine ⟨fun hf => ⟨s.setSE true, seIs_of rfl, rfl, fpCheck_of_exceptional hf⟩, fun hf => ?_,
    fun hf ht => ?_, fun hquiet => ?_⟩
  · obtain ⟨u, hu, hstatus, hkept⟩ := fpCheck_of_passes (unit := unit) (p := p) (se := true) (x := x) (.inl hf)
    exact ⟨u, hstatus, hkept, hu⟩
  · exact ⟨_, unitStatus_of rfl, rfl, fpCheck_of_resultTraps hf ht⟩
  · obtain ⟨u, hu, hstatus, hkept⟩ :=
      fpCheck_of_passes (unit := unit) (p := p) (se := false) (x := x) (hquiet.imp_right fun h => ⟨rfl, h⟩)
    exact ⟨u, hstatus, hkept, hu⟩

/-! ## Results written to fdest (R342) -/

/-- A write to the floating-point registers changes nothing else. -/
theorem fw_eq_with_fpr (s : State) (p : Prec) (dest : Reg) (v : Dword) :
    s.fw p dest v = { s with fpr := (s.fw p dest v).fpr } := by
  cases p <;> rfl

/-- The pair of a register takes both words of a 64-bit value. -/
theorem setPair_eq_fw (s : State) (dest : Reg) (low high : Word) :
    s.setPair dest low high = s.fw .double dest (high ++ low) := by
  have hlow : (high ++ low).extractLsb' 0 32 = low := BitVec.extractLsb'_append_eq_right
  have hhigh : (high ++ low).extractLsb' 32 32 = high := BitVec.extractLsb'_append_eq_left
  show _ = s.setPair dest _ _
  rw [hlow, hhigh]

/-- What a write to an aligned destination leaves, after a part of the rule that wrote fsr and the count of free values alone. -/
theorem fw_of_checksOnly {s t : State} {p : Prec} {dest : Reg} {v : Dword} (ht : ChecksOnly s t)
    (hdest : alignedFor p dest = true) :
    FpWritten s p dest v (t.fw p dest v) ∧ (t.fw p dest v).fsr = t.fsr ∧ FpFrame s (t.fw p dest v) := by
  unfold ChecksOnly at ht
  have hfw := fw_eq_with_fpr t p dest v
  refine ⟨fpWritten_fw hdest (by rw [ht]), by rw [hfw], fun a => ?_, ?_⟩
  · rw [hfw, ht]
  · rw [hfw, ht]

/-- A checked result written to fdest. -/
theorem fpCheck_writeScalar_leaves {unit : FpUnit} {s : State} {r : Prec} {dest : Reg} {se : Bool} {x : FVal}
    (hpass : FpPasses s r se x) (hdest : alignedFor r dest = true) :
    ((fpCheck unit x r se s).bind (writeScalar r dest)).Leaves fun u =>
      FpWritten s r dest (fpBits s r se x) u ∧ FpStatus unit s r se x u ∧ FpFrame s u := by
  refine fpCheck_bind_leaves hpass fun t hstatus ht => ?_
  obtain ⟨hwritten, hfsr, hframe⟩ := fw_of_checksOnly (v := fpBits s r se x) ht hdest
  exact ⟨_, rfl, hwritten, fpStatus_congr hstatus hfsr, hframe⟩

/-- Settles O39: the three rules share FPCheck and the write of its result. -/
theorem scalarArithmetic : Obligations.ScalarArithmetic := by
  intro s o h hdest hp
  have hrule : ∀ {unit op}, FpPasses s o.r (exceptional s o) (op s.rm (value1 s o) (value2 s o)) →
      (scalarArith unit op o s).Leaves _ := fun hpass => by
    rw [scalarArith_eq h hp _ _ hdest]
    exact fpCheck_writeScalar_leaves hpass hdest
  exact ⟨fun hpass => completes_of_leaves rfl (hrule (op := exactAdd) hpass),
    fun hpass => completes_of_leaves rfl (hrule (op := exactSub) hpass),
    fun hpass => completes_of_leaves rfl (hrule (op := mulOp) hpass)⟩

/-! ## Moves (R352) -/

/-- Settles O46: the scalar move writes what FPCheck answers, the pipelined one issues it. -/
theorem adderMoves : Obligations.AdderMoves := by
  intro s o hexec hsrc x se hpass
  refine ⟨fun hdest => completes_of_leaves rfl ?_, fun hfits => completes_of_leaves rfl ?_⟩
  · rw [bodyFamov_eq hexec hsrc hdest]
    exact fpCheck_writeScalar_leaves hpass hdest
  · rw [bodyPfamov_eq hexec hsrc]
    exact fpCheck_pushAdder_leaves hpass hfits

/-! ## fmlow.dd (R347) -/

/-- The high word of the result: bits 52:32 of the product, and the sign in bit 31. -/
theorem getLsbD_mulHighWord_low (a b free : Dword) {k : Nat} (hk : k < 21) :
    (mulHighWord a b free).getLsbD k = (lowProduct a b).getLsbD (32 + k) :=
  BitVec.getLsbD_append.trans (by simp [hk])

theorem getLsbD_mulHighWord_sign (a b free : Dword) :
    (mulHighWord a b free).getLsbD 31 = (a.getLsbD 63 != b.getLsbD 63) :=
  BitVec.getLsbD_append.trans (BitVec.getLsbD_append.trans (by simp))

/-- Bits 52:0 of the two result words are the low product. -/
theorem extractLsb'_mulLow (a b free : Dword) :
    (mulHighWord a b free ++ mulLowWord a b).extractLsb' 0 53 = lowProduct a b := by
  apply BitVec.eq_of_getLsbD_eq
  intro k hk
  rw [BitVec.getLsbD_extractLsb', BitVec.getLsbD_append]
  by_cases h : k < 32
  · simp [mulLowWord, h, hk]
  · have hhigh : k - 32 < 21 := by omega
    have hk32 : 32 + (k - 32) = k := by omega
    simp [getLsbD_mulHighWord_low, h, hk, hhigh, hk32]

/-- Bit 63 is the exclusive or of the signs. -/
theorem getLsbD_mulLow_sign (a b free : Dword) :
    (mulHighWord a b free ++ mulLowWord a b).getLsbD 63 = (a.getLsbD 63 != b.getLsbD 63) :=
  BitVec.getLsbD_append.trans (getLsbD_mulHighWord_sign a b free)

/-- Settles O42: the pair written is the low product under the sign bit. -/
theorem multiplyLow : Obligations.MultiplyLow := by
  intro s o hexec h1 h2 hdest
  refine completes_of_leaves rfl ?_
  unfold bodyFmlow
  rw [fpEscape_of_executes hexec, requireAligned_of (by rw [h1, h2, hdest]; rfl), setPair_eq_fw]
  obtain ⟨hwritten, hfsr, hmem, hframe⟩ := fw_of_checksOnly (s := s) (t := s.nextFree)
    (v := mulHighWord (s.fd o.src1) (s.fd o.src2) s.free ++ mulLowWord (s.fd o.src1) (s.fd o.src2)) rfl hdest
  refine ⟨_, rfl, ⟨_, extractLsb'_mulLow _ _ _, getLsbD_mulLow_sign _ _ _, hwritten⟩, hmem, ?_⟩
  rw [fw_eq_with_fpr]
  rfl

/-! ## Approximations (R348, R349) -/

section
variable {s : State} {o : Fp2} {outside : FVal → Bool} {fn : Dword → Prec → Prec → Dword}

/-- A source in the domain: the parameter function's value, SE cleared. -/
theorem approximate_of_inside (hin : outside (fval o.s (s.fr o.s o.src)) = false) :
    approximate outside fn o s = .done () ((s.setSE false).fw o.r o.dest (fn (s.fr o.s o.src) o.s o.r)) := by
  unfold approximate
  rw [if_neg (by rw [hin]; decide)]

/-- A source outside the domain, traps disabled: a free value, SE set. -/
theorem approximate_of_outside (hout : outside (fval o.s (s.fr o.s o.src)) = true) (hf : s.fte = false) :
    approximate outside fn o s = .done () ((s.setSE true).nextFree.fw o.r o.dest s.free) := by
  unfold approximate
  rw [if_pos hout, if_neg (by rw [hf]; decide)]

/-- A source outside the domain, traps enabled. -/
theorem approximate_of_outside_traps (hout : outside (fval o.s (s.fr o.s o.src)) = true) (hf : s.fte = true) :
    approximate outside fn o s = raise .ft .fpSource .nothing (s.setSE true) := by
  unfold approximate
  rw [if_pos hout, if_pos hf]

theorem scalarApproximate_eq (hexec : Executes s o.d) (hp : pairArith o.s o.r = true) (hsrc : alignedFor o.s o.src = true)
    (hdest : alignedFor o.r o.dest = true) : scalarApproximate outside fn o s = approximate outside fn o s := by
  unfold scalarApproximate
  rw [fpEscape_of_executes hexec, requirePair_of hp, requireAligned_of (by rw [hsrc, hdest]; rfl)]

end

/-- The instruction is an approximation by `fn`, whose source is in the domain when `outside` is false. -/
def Approximates (s : State) (o : Fp2) (i : Instr) (outside : Bool) (fn : Dword → Prec → Prec → Dword) : Prop :=
  (outside = false → Completes i s none fun u =>
    FpWritten s o.r o.dest (fn (s.fr o.s o.src) o.s o.r) u ∧ SeIs false s u ∧ FpFrame s u) ∧
  (outside = true → s.fte = false → Completes i s none fun u =>
    FprKeptBut (occupies o.r o.dest) s u ∧ SeIs true s u ∧ FpFrame s u) ∧
  (outside = true → s.fte = true → s.pendDslot = false → ∃ u, SeIs true s u ∧ u = { s with fsr := u.fsr } ∧
    Traps i s u s.pc { cls := .ft, reason := .fpSource, detail := .nothing })

theorem approximates_of_approximate {s : State} {o : Fp2} {i : Instr} {outside : FVal → Bool}
    {fn : Dword → Prec → Prec → Dword} (hdest : alignedFor o.r o.dest = true)
    (he : exec i s = finish s.pc (approximate outside fn o s)) :
    Approximates s o i (outside (fval o.s (s.fr o.s o.src))) fn := by
  refine ⟨fun hin => completes_of_leaves he ?_, fun hout hf => completes_of_leaves he ?_, fun hout hf hd =>
    ⟨s.setSE true, seIs_of rfl, rfl, traps_of_raise he hd (approximate_of_outside_traps hout hf)⟩⟩
  · obtain ⟨hwritten, hfsr, hframe⟩ :=
      fw_of_checksOnly (s := s) (t := s.setSE false) (v := fn (s.fr o.s o.src) o.s o.r) rfl hdest
    exact ⟨_, approximate_of_inside hin, hwritten, seIs_of hfsr, hframe⟩
  · obtain ⟨⟨hkept, _⟩, hfsr, hframe⟩ :=
      fw_of_checksOnly (s := s) (t := (s.setSE true).nextFree) (v := s.free) rfl hdest
    exact ⟨_, approximate_of_outside hout hf, hkept, seIs_of hfsr, hframe⟩

/-- Settles O43: the two approximations differ in the domain and in the parameter function. -/
theorem approximations : Obligations.Approximations := by
  intro s o hexec hp hsrc hdest
  have hrule : ∀ {outside fn}, finish s.pc (scalarApproximate outside fn o s) = finish s.pc (approximate outside fn o s) :=
    congrArg (finish s.pc) (scalarApproximate_eq hexec hp hsrc hdest)
  exact ⟨approximates_of_approximate (i := .frcp o) hdest hrule, approximates_of_approximate (i := .frsqr o) hdest hrule⟩

/-! ## Conversions (R350, R351) -/

/-- The state a conversion that goes on hands to the scalar or the pipelined form. -/
def conversionState (c : Conversion) (s : State) : State := { s.nextFree.nextFree with fsr := conversionFsr c s.fsr }

/-- What a conversion does with the source of an instruction. -/
def conversionOf (rm : RMode) (o : Fp2) (s : State) : Conversion :=
  convert rm (s.nextFree.free.getLsbD 0) (fval o.s (s.fr o.s o.src))

/-- The status of a conversion: SE, AI, and SI sticking. -/
def ConversionStatus (c : Conversion) (s u : State) : Prop :=
  u.fsr.getLsbD 8 = c.int.isNone ∧ u.fsr.getLsbD 15 = c.inexact ∧ u.fsr.getLsbD 7 = (s.fsr.getLsbD 7 || c.inexact) ∧
    FsrKeptBut (fun k => k = 7 ∨ k = 8 ∨ k = 15) s u

theorem conversionStatus_of {c : Conversion} {s u : State} (h : u.fsr = conversionFsr c s.fsr) : ConversionStatus c s u := by
  unfold ConversionStatus FsrKeptBut
  simp only [h, getLsbD_conversionFsr]
  refine ⟨by simp, by simp, ?_, fun k hk => ?_⟩
  · cases c.inexact <;> simp
  · simp only [not_or] at hk
    simp [hk]

section
variable {rm : RMode} {o : Fp2} {s : State} {k : Word → Word → State → Exec Unit}

/-- With traps enabled a source without an integer in range traps, only SE being recorded. -/
theorem convertTo_of_source_traps (hc : (conversionOf rm o s).int.isNone = true) (hf : s.fte = true) :
    convertTo rm o k s = raise .ft .fpSource .nothing (s.setSE true) := by
  unfold convertTo
  exact if_pos (by rw [hf]; exact congrArg (· && true) hc)

/-- A conversion that takes no trap hands the two words of its result on, with the status recorded. -/
theorem convertTo_of_passes (hsrc : ((conversionOf rm o s).int.isNone && s.fte) = false)
    (hres : (s.fte && (conversionOf rm o s).inexact && s.ti) = false) : convertTo rm o k s =
      k (conversionLow s.free (conversionOf rm o s).int) (conversionHigh s.free) (conversionState (conversionOf rm o s) s) := by
  unfold convertTo
  exact (if_neg (Bool.not_eq_true _ ▸ hsrc)).trans (if_neg (Bool.not_eq_true _ ▸ hres))

/-- The 64-bit result of a conversion. -/
def conversionResult (free : Dword) (int : Option Int) : Dword := conversionHigh free ++ conversionLow free int

theorem extractLsb'_conversionResult (free : Dword) (int : Option Int) :
    (conversionResult free int).extractLsb' 0 32 = conversionLow free int := BitVec.extractLsb'_append_eq_right

/-- The scalar form writes the result as a double. -/
theorem writePair_leaves (c : Conversion) (hdest : alignedFor .double o.dest = true) :
    (writePair o.dest (conversionLow s.free c.int) (conversionHigh s.free) (conversionState c s)).Leaves fun u =>
      FpWritten s .double o.dest (conversionResult s.free c.int) u ∧ ConversionStatus c s u ∧ FpFrame s u := by
  obtain ⟨hwritten, hfsr, hframe⟩ :=
    fw_of_checksOnly (s := s) (t := conversionState c s) (v := conversionResult s.free c.int) rfl hdest
  exact ⟨_, congrArg (Exec.done ()) (setPair_eq_fw ..), hwritten, conversionStatus_of hfsr, hframe⟩

/-- The pipelined form issues it as a double entry. -/
theorem pushPair_leaves (c : Conversion) (hfits : retireFits s.adder.s3 o.dest = true) :
    (pushPair o.dest (conversionLow s.free c.int) (conversionHigh s.free) (conversionState c s)).Leaves fun u =>
      Retired s s.adder.s3 .double o.dest u ∧ ConversionStatus c s u ∧
        AdderFrame s (s.adder.push3 (some { value := conversionResult s.free c.int, prec := .double })) u := by
  obtain ⟨u, hu, hretired, hkept⟩ := issueAdder_of_fits (s := s) (t := conversionState c s) (r := .double)
    (some (entryOf .double (conversionResult s.free c.int))) hfits rfl rfl
  refine ⟨u, hu, hretired, conversionStatus_of ?_, fun a => ?_, ?_⟩ <;> rw [hkept] <;> rfl

end

/-- The two forms of a conversion under a rounding direction. -/
structure Converting (rm : State → RMode) (o : Fp2) (s : State) (scalar piped : Instr) : Prop where
  scalar_eq : exec scalar s = finish s.pc (scalarConvert rm o s)
  piped_eq : exec piped s = finish s.pc (pipedConvert rm o s)

section
variable {rm : State → RMode} {o : Fp2} {s : State} {scalar piped : Instr} (hi : Converting rm o s scalar piped)
  (hexec : Executes s o.d) (hp : pairFix o.s o.r = true) (hsrc : alignedFor o.s o.src = true)
include hi hexec hp hsrc

/-- A conversion that takes no trap completes in both forms. -/
theorem conversion_completes {c : Conversion} (hc : conversionOf (rm s) o s = c) (hsource : (c.int.isNone && s.fte) = false)
    (hresult : (s.fte && c.inexact && s.ti) = false) :
    (alignedFor .double o.dest = true → Completes scalar s none fun u =>
      FpWritten s .double o.dest (conversionResult s.free c.int) u ∧ ConversionStatus c s u ∧ FpFrame s u) ∧
    (retireFits s.adder.s3 o.dest = true → Completes piped s none fun u =>
      Retired s s.adder.s3 .double o.dest u ∧ ConversionStatus c s u ∧
        AdderFrame s (s.adder.push3 (some { value := conversionResult s.free c.int, prec := .double })) u) := by
  subst hc
  refine ⟨fun hdest => completes_of_leaves hi.scalar_eq ?_, fun hfits => completes_of_leaves hi.piped_eq ?_⟩
  · rw [scalarConvert_eq hexec hsrc rm hp hdest, convertTo_of_passes hsource hresult]
    exact writePair_leaves _ hdest
  · rw [pipedConvert_eq hexec hsrc rm hp, convertTo_of_passes hsource hresult]
    exact pushPair_leaves _ hfits

/-- With traps enabled a conversion of a source without an integer in range traps in both forms. -/
theorem conversion_source_traps (hc : (conversionOf (rm s) o s).int.isNone = true) (hf : s.fte = true)
    (hd : s.pendDslot = false) :
    (alignedFor .double o.dest = true →
      Traps scalar s (s.setSE true) s.pc { cls := .ft, reason := .fpSource, detail := .nothing }) ∧
    Traps piped s (s.setSE true) s.pc { cls := .ft, reason := .fpSource, detail := .nothing } :=
  ⟨fun hdest => traps_of_raise hi.scalar_eq hd
      ((scalarConvert_eq hexec hsrc rm hp hdest).trans (convertTo_of_source_traps hc hf)),
    traps_of_raise hi.piped_eq hd ((pipedConvert_eq hexec hsrc rm hp).trans (convertTo_of_source_traps hc hf))⟩

end

/-- An effect of an instruction that completes may be weakened. -/
theorem completes_mono {i : Instr} {s : State} {target : Option Word} {effect effect' : State → Prop}
    (h : Completes i s target effect) (himp : ∀ u, effect u → effect' u) : Completes i s target effect' := by
  obtain ⟨u, hu, hend⟩ := h
  exact ⟨u, himp u hu, hend⟩

/-- A value with no signed 32-bit integer: a NaN, an infinity, or a finite value that rounds outside the range (R350). -/
def OutOfRange (rm : RMode) (v : FVal) : Prop :=
  ∀ neg m e, v = .fin neg m e → (roundToInt rm neg m e).1 < -2 ^ 31 ∨ 2 ^ 31 ≤ (roundToInt rm neg m e).1

/-- It has no integer. -/
theorem convert_int_of_outOfRange {rm : RMode} {v : FVal} (freeBit : Bool) (h : OutOfRange rm v) :
    (convert rm freeBit v).int = none := by
  cases v with
  | nan => rfl
  | inf neg => rfl
  | fin neg m e =>
    have hout : outsideSigned (roundToInt rm neg m e).1 = true := by
      rw [outsideSigned_eq]
      exact decide_eq_true (h neg m e rfl)
    exact if_pos hout

/-- Of a finite value the inexact bit says that the value is not the integer it rounds to (R350). -/
theorem conversionOf_inexact {rm : RMode} {o : Fp2} {s : State} {neg : Bool} {m : Nat} {e : Int}
    (hval : fval o.s (s.fr o.s o.src) = .fin neg m e) : (conversionOf rm o s).inexact = (roundToInt rm neg m e).2 := by
  unfold conversionOf
  rw [hval]
  rfl

/-- fix and pfix round under RM, ftrunc and pftrunc toward zero (R350, R351). -/
theorem converting_fix (o : Fp2) (s : State) : Converting State.rm o s (.fix o) (.pfix o) := ⟨rfl, rfl⟩

theorem converting_ftrunc (o : Fp2) (s : State) : Converting (fun _ => .zero) o s (.ftrunc o) (.pftrunc o) := ⟨rfl, rfl⟩

/-- Settles O44: a source in range has its integer, so no form asks for SE. -/
theorem conversions : Obligations.Conversions := by
  intro s o neg m e hexec hp hsrc hval rule
  have hrule : ∀ (rm : State → RMode) {scalar piped}, Converting rm o s scalar piped → rule (rm s) scalar piped := by
    intro rm scalar piped hi hrange hquiet
    have hc : conversionOf (rm s) o s =
        { int := some (roundToInt (rm s) neg m e).1, inexact := (roundToInt (rm s) neg m e).2 } := by
      unfold conversionOf
      rw [hval, convert_of_inRange _ _ _ _ _ hrange.1 hrange.2]
    have hnone : (s.fte && (roundToInt (rm s) neg m e).2 && s.ti) = false := by
      rcases hquiet with h | h | h <;> simp [h]
    obtain ⟨hscalar, hpiped⟩ := conversion_completes hi hexec hp hsrc hc rfl hnone
    exact ⟨fun hdest => completes_mono (hscalar hdest) fun u ⟨hwritten, hrest⟩ =>
        ⟨⟨_, extractLsb'_conversionResult _ _, hwritten⟩, hrest⟩,
      fun hfits => completes_mono (hpiped hfits) fun u ⟨hretired, hstatus, hframe⟩ =>
        ⟨hretired, hstatus, _, extractLsb'_conversionResult _ _, hframe⟩⟩
  exact ⟨hrule State.rm (converting_fix o s), hrule (fun _ => .zero) (converting_ftrunc o s)⟩

/-- What a conversion of a value out of range records: SE, and of a finite source whether it is the integer it rounds to. -/
def OutOfRangeStatus (rm : RMode) (o : Fp2) (s u : State) : Prop :=
  u.fsr.getLsbD 8 = true ∧
    (∀ neg m e, fval o.s (s.fr o.s o.src) = .fin neg m e → u.fsr.getLsbD 15 = (roundToInt rm neg m e).2) ∧
    u.fsr.getLsbD 7 = (s.fsr.getLsbD 7 || u.fsr.getLsbD 15) ∧ FsrKeptBut (fun k => k = 7 ∨ k = 8 ∨ k = 15) s u

theorem outOfRangeStatus_of {rm : RMode} {o : Fp2} {s u : State} (hout : (conversionOf rm o s).int.isNone = true)
    (h : ConversionStatus (conversionOf rm o s) s u) : OutOfRangeStatus rm o s u := by
  obtain ⟨hse, hai, hsi, hkept⟩ := h
  exact ⟨hse.trans hout, fun neg m e hval => hai.trans (conversionOf_inexact hval), hai ▸ hsi, hkept⟩

/-- Settles O45: a source out of range has no integer, which sets SE. -/
theorem conversionsOutOfRange : Obligations.ConversionsOutOfRange := by
  intro s o hexec hp hsrc rule
  have hrule : ∀ (rm : State → RMode) {scalar piped}, Converting rm o s scalar piped → rule (rm s) scalar piped := by
    intro rm scalar piped hi hout
    have hnone : (conversionOf (rm s) o s).int.isNone = true :=
      congrArg Option.isNone (convert_int_of_outOfRange _ hout)
    have hcompletes := fun hf : s.fte = false =>
      conversion_completes hi hexec hp hsrc rfl (by rw [hf, Bool.and_false]) (by rw [hf, Bool.false_and, Bool.false_and])
    refine ⟨fun hf hdest => ?_, fun hf hfits => ?_, fun hf hd => ?_⟩
    · exact completes_mono ((hcompletes hf).1 hdest) fun u ⟨hwritten, hu, hframe⟩ =>
        ⟨hwritten.1, outOfRangeStatus_of hnone hu, hframe⟩
    · exact completes_mono ((hcompletes hf).2 hfits) fun u ⟨hretired, hu, hframe⟩ =>
        ⟨hretired, outOfRangeStatus_of hnone hu, _, hframe⟩
    · exact ⟨s.setSE true, seIs_of rfl, rfl, conversion_source_traps hi hexec hp hsrc hnone hf hd⟩
  exact ⟨hrule State.rm (converting_fix o s), hrule (fun _ => .zero) (converting_ftrunc o s)⟩

end Sys2Proof.Machine

/-! # The operands and the units of the dual operations (spec/46_fp_dual.md) -/

namespace Sys2Proof.Machine

/-! ## The operand table, column by column (R380) -/

theorem routeOf_m1 : ∀ dpc : BitVec 4, (routeOf dpc).m1 =
    if dpc.toNat = 9 ∨ dpc.toNat = 11 ∨ dpc.toNat = 13 ∨ dpc.toNat = 15 then .src1
    else if dpc.toNat < 4 ∨ dpc.toNat = 8 ∨ dpc.toNat = 10 then .kr else .ki := by decide

theorem routeOf_m2 : ∀ dpc : BitVec 4, (routeOf dpc).m2 =
    if dpc.toNat = 8 ∨ dpc.toNat = 10 ∨ dpc.toNat = 12 ∨ dpc.toNat = 14 then .aout else .src2 := by decide

theorem routeOf_a1 : ∀ dpc : BitVec 4, (routeOf dpc).a1 =
    if dpc.toNat < 8 then (if dpc.toNat % 2 = 0 then .src1 else .t)
    else if dpc.toNat = 9 then .aout else if dpc.toNat % 2 = 0 then .src1 else .t := by decide

theorem routeOf_a2 : ∀ dpc : BitVec 4, (routeOf dpc).a2 =
    if dpc.toNat < 8 then (if dpc.toNat / 2 % 2 = 0 then .mout else .aout)
    else if dpc.toNat = 9 ∨ dpc.toNat = 13 then .mout
    else if dpc.toNat = 11 ∨ dpc.toNat = 15 then .aout else .src2 := by decide

/-! ## The operands (R385 to R387) -/

section
variable (dpc : BitVec 4) (o : Fp3) (s : State)

/-- The constant register of a row that names one: the value just loaded stands for the old one where the parameters say so (R387). -/
theorem dualOperands_m1_of_constant (h : (routeOf dpc).m1 ≠ .src1) : (dualOperands dpc o s).m1 =
    if (s.params.dpcKLoad.getLsbD dpc.toNat && s.params.kLoadUsesNew) = true then .value (s.fr o.s o.src1) (some o.s)
    else ofTagged (s.kOf (routeOf dpc).m1) := by
  dsimp only [dualOperands]
  cases hm1 : (routeOf dpc).m1 with
  | src1 => exact absurd hm1 h
  | kr => cases s.params.dpcKLoad.getLsbD dpc.toNat <;> cases s.params.kLoadUsesNew <;> rfl
  | ki => cases s.params.dpcKLoad.getLsbD dpc.toNat <;> cases s.params.kLoadUsesNew <;> rfl

theorem dualOperands_m1 : (dualOperands dpc o s).m1 =
    if dpc.toNat = 9 ∨ dpc.toNat = 11 ∨ dpc.toNat = 13 ∨ dpc.toNat = 15 ∨
        (s.params.dpcKLoad.getLsbD dpc.toNat && s.params.kLoadUsesNew) = true then
      .value (s.fr o.s o.src1) (some o.s)
    else ofTagged (if dpc.toNat < 4 ∨ dpc.toNat = 8 ∨ dpc.toNat = 10 then s.kr else s.ki) := by
  have hroute := routeOf_m1 dpc
  by_cases hsrc1 : dpc.toNat = 9 ∨ dpc.toNat = 11 ∨ dpc.toNat = 13 ∨ dpc.toNat = 15
  · rw [if_pos hsrc1] at hroute
    rw [if_pos (by tauto)]
    dsimp only [dualOperands]
    rw [hroute]
  · rw [if_neg hsrc1] at hroute
    rw [dualOperands_m1_of_constant dpc o s (by rw [hroute]; split_ifs <;> decide), hroute]
    simp only [← or_assoc] at hsrc1 ⊢
    simp only [hsrc1, false_or]
    split_ifs <;> rfl

theorem dualOperands_m2 : (dualOperands dpc o s).m2 =
    if dpc.toNat = 8 ∨ dpc.toNat = 10 ∨ dpc.toNat = 12 ∨ dpc.toNat = 14 then ofEntry s.adder.s3
    else .value (s.fr o.s o.src2) (some o.s) := by
  dsimp only [dualOperands]
  rw [routeOf_m2]
  split_ifs <;> rfl

theorem dualOperands_a1 : (dualOperands dpc o s).a1 =
    if dpc.toNat < 8 then (if dpc.toNat % 2 = 0 then .value (s.fr o.r o.src1) (some o.r) else ofTagged s.t)
    else if dpc.toNat = 9 then ofEntry s.adder.s3
    else if dpc.toNat % 2 = 0 then .value (s.fr o.r o.src1) (some o.r) else ofTagged s.t := by
  dsimp only [dualOperands]
  rw [routeOf_a1]
  split_ifs <;> rfl

theorem dualOperands_a2 : (dualOperands dpc o s).a2 =
    let mout := ofEntry (if o.s = .double then s.multiplier.s2 else s.multiplier.s3)
    if dpc.toNat < 8 then (if dpc.toNat / 2 % 2 = 0 then mout else ofEntry s.adder.s3)
    else if dpc.toNat = 9 ∨ dpc.toNat = 13 then mout
    else if dpc.toNat = 11 ∨ dpc.toNat = 15 then ofEntry s.adder.s3 else .value (s.fr o.r o.src2) (some o.r) := by
  dsimp only [dualOperands]
  rw [routeOf_a2, ← last_depthOf]
  split_ifs <;> rfl

end

/-! ## One unit (R341, R386) -/

section
variable (unit : FpUnit) (op : ExactOp) (sp rp : Prec) (a b : UnitOperand) (s : State)

/-- An empty operand leaves any value, and fsr as it was. -/
theorem unitResult_of_empty (h : a = .empty ∨ b = .empty) :
    unitResult unit op sp rp a b s = .done s.free { s with freeCount := s.freeCount + 1 } := by
  rcases h with rfl | rfl
  · rfl
  · cases a <;> rfl

/-- With traps disabled a unit completes, whatever its operands. -/
theorem unitResult_done_of_not_fte (h : s.fte = false) : ∃ v t, unitResult unit op sp rp a b s = .done v t := by
  cases a with
  | empty => exact ⟨_, _, unitResult_of_empty unit op sp rp _ b s (.inl rfl)⟩
  | value va qa =>
    cases b with
    | empty => exact ⟨_, _, unitResult_of_empty unit op sp rp _ _ s (.inr rfl)⟩
    | value vb qb =>
      obtain ⟨t, ht, -⟩ := fpCheck_of_passes (unit := unit) (.inl h)
      exact ⟨_, t, ht⟩

end

/-! ## The load parameters at reset (R380, R387) -/

theorem loadDefaults_at_reset : ∀ n, n < 16 →
    State.reset.params.dpcTLoad.getLsbD n = decide (n ∈ [2, 3, 6, 7, 8, 11]) ∧
    State.reset.params.dpcKLoad.getLsbD n = decide (n < 8) ∧ State.reset.params.kLoadUsesNew = true := by decide

/-- Settles O48: the operands by the columns of the table, a unit by whether both operands are present. -/
theorem dualOperandsAndUnits : Obligations.DualOperandsAndUnits := by
  refine ⟨loadDefaults_at_reset, fun dpc o s => ⟨dualOperands_m1 dpc o s, dualOperands_m2 dpc o s,
    dualOperands_a1 dpc o s, dualOperands_a2 dpc o s⟩, fun unit op sp rp a b s => ⟨?_, fun hempty => ?_, fun hfte => ?_⟩⟩
  · rintro va qa vb qb rfl rfl
    rfl
  · exact ⟨_, unitResult_of_empty unit op sp rp a b s hempty⟩
  · obtain ⟨v, t, hdone⟩ := unitResult_done_of_not_fte unit op sp rp a b s hfte
    exact ⟨v, t, hdone, unitResult_checksOnly hdone⟩

end Sys2Proof.Machine

/-! # HOLD and RESET (spec/60_exceptions.md R464, spec/70_reset_and_hazards.md R473) -/

namespace Sys2Proof.Machine

/-- HOLD and RESET each hold the core, the other pin at any level. -/
theorem held_iff (s : State) : s.held = true ↔ s.holdPin = true ∨ s.resetPin = true := Bool.or_eq_true_iff

theorem step_of_held {s : State} (h : s.held = true) : step s = .next s := if_pos h

@[simp] theorem State.setHold_holdPin (s : State) (level : Bool) : (s.setHold level).holdPin = level := rfl

/-- Neither asserting nor releasing HOLD moves the pc (R464). -/
@[simp] theorem State.setHold_pc (s : State) (level : Bool) : (s.setHold level).pc = s.pc := rfl

@[simp] theorem State.assertReset_resetPin (s : State) : s.assertReset.resetPin = true := rfl

/-- Settles O9: either pin holds the core, and a step of a held core answers the state it began in. -/
theorem holdDoesNothing : Obligations.HoldDoesNothing := by
  intro s
  refine ⟨fun hhold => ?_, fun hreset => ?_, s.setHold_holdPin true, s.assertReset_resetPin, ?_⟩
  · exact step_of_held ((held_iff s).mpr (.inl hhold))
  · exact step_of_held ((held_iff s).mpr (.inr hreset))
  · calc ((s.setHold true).setHold false).pc
      _ = (s.setHold true).pc := State.setHold_pc _ false
      _ = s.pc := State.setHold_pc s true

end Sys2Proof.Machine

/-! # Device reset (spec/70_reset_and_hazards.md R470 to R472) -/

namespace Sys2Proof.Machine

section
variable (s : State)

/-! ## What reset leaves as it was (R470) -/

@[simp] theorem State.deviceReset_params : s.deviceReset.params = s.params := rfl
@[simp] theorem State.deviceReset_mem : s.deviceReset.mem = s.mem := rfl
@[simp] theorem State.deviceReset_bus : s.deviceReset.bus = s.bus := rfl
@[simp] theorem State.deviceReset_freeCount : s.deviceReset.freeCount = s.freeCount := rfl
@[simp] theorem State.deviceReset_intPin : s.deviceReset.intPin = s.intPin := rfl
@[simp] theorem State.deviceReset_holdPin : s.deviceReset.holdPin = s.holdPin := rfl
@[simp] theorem State.deviceReset_resetPin : s.deviceReset.resetPin = s.resetPin := rfl

/-! ## What reset sets (R470, R471) -/

@[simp] theorem State.deviceReset_pc : s.deviceReset.pc = s.params.resetVector := rfl
@[simp] theorem State.deviceReset_psr : s.deviceReset.psr = 0#32 := rfl
@[simp] theorem State.deviceReset_dirbase : s.deviceReset.dirbase = 0#32 := rfl
@[simp] theorem State.deviceReset_db : s.deviceReset.db = 0#32 := rfl
@[simp] theorem State.deviceReset_fsr : s.deviceReset.fsr = 0#32 := rfl
@[simp] theorem State.deviceReset_fir : s.deviceReset.fir = 0#32 := rfl
@[simp] theorem State.deviceReset_epsr : s.deviceReset.epsr = 0#32 := rfl
@[simp] theorem State.deviceReset_adder : s.deviceReset.adder = Pipe.empty := rfl
@[simp] theorem State.deviceReset_multiplier : s.deviceReset.multiplier = Pipe.empty := rfl
@[simp] theorem State.deviceReset_loader : s.deviceReset.loader = Pipe.empty := rfl
@[simp] theorem State.deviceReset_graphics : s.deviceReset.graphics = none := rfl
@[simp] theorem State.deviceReset_merge : s.deviceReset.merge = { value := s.params.mergeReset, tag := none } := rfl
@[simp] theorem State.deviceReset_pendSync : s.deviceReset.pendSync = false := rfl
@[simp] theorem State.deviceReset_pendDslot : s.deviceReset.pendDslot = false := rfl
@[simp] theorem State.deviceReset_pendExt : s.deviceReset.pendExt = false := rfl
@[simp] theorem State.deviceReset_firTrap : s.deviceReset.firTrap = false := rfl

/-- A hard-wired register reads as 0 in every state, reset or not (R26). -/
theorem State.f_of_hardF {i : Reg} (h : hardF i = true) : s.f i = 0#32 := if_pos h

/-- Every field that epsr stores reads as 0 after reset: the other fields of a read are views (R34). -/
theorem getLsbD_readEpsr_deviceReset {k : Nat} (hk : k = 13 ∨ k = 14 ∨ k = 23 ∨ k = 24) :
    s.deviceReset.readEpsr.getLsbD k = false := by
  rw [getLsbD_readEpsr_stored _ hk, State.deviceReset_epsr, BitVec.getLsbD_zero]

end

/-! ## What reset depends on (R472) -/

/-- Reset forgets every field it sets: two states that agree on what it keeps are reset to the same state. -/
theorem deviceReset_congr {s t : State} (hparams : s.params = t.params) (hint : s.intPin = t.intPin)
    (hhold : s.holdPin = t.holdPin) (hreset : s.resetPin = t.resetPin) (hmem : s.mem = t.mem) (hbus : s.bus = t.bus)
    (hfree : s.freeCount = t.freeCount) : s.deviceReset = t.deviceReset := by
  unfold State.deviceReset
  rw [hparams, hint, hhold, hreset, hmem, hbus, hfree]

/-- A machine that was just made is already reset, with any parameters. -/
theorem deviceReset_resetWith (p : Params) : (State.resetWith p).deviceReset = State.resetWith p := rfl

/-- Settles O56: the control registers, epsr's stored fields and its views, the pipelines, the hard-wired registers and the latches,
each by its own lemma; the defaults by the parameters of `State.reset`. -/
theorem resetValues : Obligations.ResetValues := by
  intro s t
  have hmerge : t.merge.value = s.params.mergeReset := congrArg _ s.deviceReset_merge
  exact ⟨s.deviceReset_pc, rfl, rfl, rfl, rfl, s.deviceReset_params,
    s.deviceReset_psr, s.deviceReset_dirbase, s.deviceReset_db, s.deviceReset_fsr, s.deviceReset_fir,
    fun _ hk => getLsbD_readEpsr_deviceReset s hk, readEpsr_type t, readEpsr_stepping t, readEpsr_dcs t, readEpsr_int t,
    s.deviceReset_adder, s.deviceReset_multiplier, s.deviceReset_loader, s.deviceReset_graphics,
    hmerge, t.x_zero, t.f_of_hardF rfl, t.f_of_hardF rfl,
    s.deviceReset_pendSync, s.deviceReset_pendDslot, s.deviceReset_pendExt, s.deviceReset_firTrap, s.deviceReset_mem,
    deviceReset_resetWith defaultParams⟩

/-- Settles O57: the first reset keeps all that the second depends on. -/
theorem resetIdempotent : Obligations.ResetIdempotent := fun s =>
  deviceReset_congr s.deviceReset_params s.deviceReset_intPin s.deviceReset_holdPin s.deviceReset_resetPin
    s.deviceReset_mem s.deviceReset_bus s.deviceReset_freeCount

end Sys2Proof.Machine
